-- ==== Sys2Proof/Word.lean ====
section
/-! DEFINITION. The word types of the UJK-640 and their plainest arithmetic (00_scope.md section 4). -/

namespace Sys2Proof

/-- One byte. -/
abbrev Byte := BitVec 8

/-- A 32-bit word of a control record or of the configuration image. -/
abbrev Word := BitVec 32

/-- A value of the time counter, in microseconds (R58). -/
abbrev Time := BitVec 32

/-- One pixel of 8 bytes: channels R, G, B, X of 16 bits, R at the lowest address (section 4.4). -/
abbrev Pixel := BitVec 64

/-- The 32 data bytes of one beat, the lowest address in the least significant byte. -/
abbrev BeatData := BitVec 256

/-- The difference of two times read as a signed 32-bit number (section 4.2). -/
def signedDiff (a b : Time) : Int := (a - b).toInt

/-- "a is later than b" (section 4.2). -/
def later (a b : Time) : Bool := decide (0 < signedDiff a b)

/-- Microseconds from `a` to `b` on the wrapping counter, as a count. -/
def elapsed (a b : Time) : Nat := (b - a).toNat

/-- "Clamped to lo..hi" (section 4.3 (5)). -/
def clampNat (lo hi x : Nat) : Nat := if x < lo then lo else if hi < x then hi else x

/-- "Clamped to lo..hi" on integers (section 4.3 (5)). -/
def clampInt (lo hi x : Int) : Int := if x < lo then lo else if hi < x then hi else x

/-- ceil(a/b) of naturals (section 4.3 (2)). -/
def ceilDiv (a b : Nat) : Nat := (a + (b - 1)) / b

/-- ceil(a/b) of integers, b positive (section 4.3 (2)). -/
def ceilDivInt (a b : Int) : Int := -((-a) / b)

/-- |a − b| of naturals. -/
def absDiff (a b : Nat) : Nat := if a < b then b - a else a - b

/-- Lerp(a, b, w) of section 4.3 (4). `/` of integers by a positive divisor is floor. -/
def lerp (a b : Int) (w : Nat) : Int := a + ((b - a) * (w : Int) + 2048) / 4096

end Sys2Proof
end

