-- ==== Sys2Proof/Syntax.lean ====
section
/-! DEFINITION. The commands of the block: one constructor per row of spec/opcode_table.json, with the operands
the row's rule gives it. Every command carries `dt`, the microseconds that pass since the command before it
(assumption log 1). -/

namespace Sys2Proof

/-- One of the two contexts (00_scope.md section 5). -/
inductive Ctx where
  | ctx0
  | ctx1
  deriving DecidableEq, Repr

/-- A response of an AXI4-class channel: OKAY, or an error, whose code is passed on unchanged (R2, R12, section 9.4). -/
inductive Resp where
  | okay
  | error (code : Nat)
  deriving DecidableEq, Repr

/-- The burst type a transaction is driven with; it is passed on unchanged (R3). -/
inductive BurstType where
  | incr
  | other (code : Nat)
  deriving DecidableEq, Repr

/-- One data beat of a write: 32 bytes and one strobe per byte (R3). -/
structure Beat where
  data : BeatData
  strb : BitVec 32
  deriving DecidableEq, Repr

/-- An upstream write burst: its tag, address, type, size and beats (section 1.1, R1, R3). -/
structure UpWrite where
  tag   : Nat
  addr  : BitVec 40
  btype : BurstType
  size  : Nat
  beats : List Beat
  deriving DecidableEq, Repr

/-- An upstream read burst: its tag 0..15, address, type, size and length 1..16 (section 1.1, R2). -/
structure UpRead where
  tag   : Nat
  addr  : BitVec 40
  btype : BurstType
  size  : Nat
  len   : Nat
  deriving DecidableEq, Repr

/-- The parameter words 1..6 of a control record (Table 10.1). -/
structure Params where
  p1 : Word
  p2 : Word
  p3 : Word
  p4 : Word
  p5 : Word
  p6 : Word
  deriving DecidableEq, Repr

/-- A slot of the control window as the port bridge hands it over: its 32 bytes, and whether every strobe was set (R9). -/
structure Slot where
  data : BeatData
  full : Bool
  deriving DecidableEq, Repr

/-- The commands. The docstring of each names its row. -/
inductive Instr where
  /-- UPSTREAM_WRITE (R1). -/
  | upstreamWrite (dt : Nat) (w : UpWrite)
  /-- HELD_WRITE_REOFFERED (R11). -/
  | heldWriteReoffered (dt : Nat)
  /-- UPSTREAM_READ (R14). -/
  | upstreamRead (dt : Nat) (r : UpRead)
  /-- MEMORY_READ_DATA (R2): one beat and its response under a tag. -/
  | memoryReadData (dt : Nat) (tag : Nat) (data : BeatData) (resp : Resp)
  /-- ANSWER_BEAT_RETURNED (R18). -/
  | answerBeatReturned (dt : Nat) (tag : Nat)
  /-- LPL_CHARACTER (R21): a character and whether its stop bit was missing. -/
  | lplCharacter (dt : Nat) (byte : Byte) (framingError : Bool)
  /-- ASSEMBLY_GAP_TIMEOUT (R22). -/
  | assemblyGapTimeout (dt : Nat)
  /-- TIMING_WINDOW_EXPIRY (R35). -/
  | timingWindowExpiry (dt : Nat)
  /-- DEFERRAL_WAIT_OUT (R52). -/
  | deferralWaitOut (dt : Nat)
  /-- FRAME_MARK (R59). -/
  | frameMark (dt : Nat)
  /-- BURST_ISSUED (R155). -/
  | burstIssued (dt : Nat)
  /-- PREEMPTION_SUSPEND (R159). -/
  | preemptionSuspend (dt : Nat)
  /-- MEMORY_WRITE_RESPONSE (R161): a response under a write tag. -/
  | memoryWriteResponse (dt : Nat) (tag : Nat) (resp : Resp)
  /-- STALL_TIMEOUT (R149). -/
  | stallTimeout (dt : Nat) (c : Ctx)
  /-- ATTN_GAP_END (R173). -/
  | attnGapEnd (dt : Nat)
  /-- SHOT (R68). -/
  | shot (dt : Nat) (p : Params)
  /-- CONTEXT_GEOMETRY (R131). -/
  | contextGeometry (dt : Nat) (c : Ctx) (p : Params)
  /-- CONTEXT_OPTICS (R131). -/
  | contextOptics (dt : Nat) (c : Ctx) (p : Params)
  /-- LINE_MEMORY (R129). -/
  | lineMemory (dt : Nat) (p : Params)
  /-- TRACKING (R36). -/
  | tracking (dt : Nat) (p : Params)
  /-- MOTION (R111). -/
  | motion (dt : Nat) (p : Params)
  /-- PROFILE_WINDOW (R76). -/
  | profileWindow (dt : Nat) (p : Params)
  /-- PROFILE_COMMIT (R79); the record has no parameter. -/
  | profileCommit (dt : Nat)
  /-- EVENT_ACK (R172). -/
  | eventAck (dt : Nat) (p : Params)
  /-- EVENT_MASK (R171). -/
  | eventMask (dt : Nat) (p : Params)
  /-- REPORT_RING (R175). -/
  | reportRing (dt : Nat) (p : Params)
  /-- ARBITER (R160). -/
  | arbiter (dt : Nat) (p : Params)
  /-- STATUS_REQUEST (R176); the record has no parameter. -/
  | statusRequest (dt : Nat)
  /-- RESET_ALL (R183). -/
  | resetAll (dt : Nat)
  /-- RESET_CONTEXT (R150). -/
  | resetContext (dt : Nat) (c : Ctx)
  /-- RESET_TRACKING (R38). -/
  | resetTracking (dt : Nat)
  /-- RESET_PROFILES (R91). -/
  | resetProfiles (dt : Nat)
  /-- RECORD_REJECTED (R166): a slot that fails a check. -/
  | recordRejected (dt : Nat) (slot : Slot)
  /-- RESET_ALL_TAKES_EFFECT (R184). -/
  | resetAllTakesEffect (dt : Nat)
  /-- PIN_RESET_ASSERT (R182). -/
  | pinResetAssert (dt : Nat)
  /-- PIN_RESET_RELEASE (R182). -/
  | pinResetRelease (dt : Nat)
  /-- IMAGE_HEADER (R186): the 32 bytes of the header. -/
  | imageHeader (dt : Nat) (bytes : BeatData)
  /-- IMAGE_RECORD (R187): the 32 bytes of a record. -/
  | imageRecord (dt : Nat) (bytes : BeatData)
  /-- BURST_BEGUN (R155). -/
  | burstBegun (dt : Nat)
  deriving DecidableEq, Repr

end Sys2Proof
end

