-- ==== Sys2Proof/Decode.lean ====
section
/-! DEFINITION. No row of spec/opcode_table.json gives bits ("fields" is empty in every row): no word spells a
command (assumption log 4). -/

namespace Sys2Proof

/-- The command that a word of `nbits` bits spells by the table's bits: none, as no row has any. -/
def decodeTableWord (_nbits _w : Nat) : Option Instr := none

end Sys2Proof
end

