-- ==== Sys2Proof/Config.lean ====
section
/-! DEFINITION. The free values: what the manual leaves open while the part goes on. Each is an opaque constant
without a body, so that no proof can see it and a claim holds whatever it is. -/

namespace Sys2Proof

/-- What singles out one read of a source row that is no longer held: the context, the time, the bound entry, the output
row, the bursts its run still has to issue, and the pixel's place. Two reads with one key give one value, so that the output
pixels of one burst that draw on one such place agree; that the value depends on no more than these is the model's choice
(DESIGN CHOICE, log 10). -/
structure UnheldKey where
  ctx    : Ctx
  time   : Time
  entry  : Nat
  outRow : Nat
  left   : Nat
  row    : Nat
  col    : Nat
  deriving DecidableEq, Repr

/-- The pixel that stage E reads from a source row which R143 released before an output row needed it again.
DESIGN CHOICE, assumption log 10: the spec states no value; free. Safe as to the value; that two reads with one key
agree is unsafe (`UnheldKey`). -/
opaque Config.unheldPixel : UnheldKey → Pixel

/-- The focus an estimator question gets from an empty track in TRACK, which R44 rules out.
DESIGN CHOICE, assumption log 11: free. Safe. -/
opaque Config.emptyTrackFocus : Time → BitVec 16

/-- Whether a TRACKING record that both lets the timing window expire (R36) and meets a waiting deferral (R54)
applies the expiry first. DESIGN CHOICE, assumption log 9: the spec gives no order; free. Safe. -/
opaque Config.trackingExpiryFirst : Time → Bool

end Sys2Proof
end

