-- ==== Sys2Proof/Machine/State.lean ====
section
/-! DEFINITION. The state of the UJK-640 block by block (00_scope.md section 2), its values after reset, and the
named update of each block. -/

namespace Sys2Proof.Machine

/-- The block stops with no fault: what the manual reports, it reports in state (INVENTORY, Faults). No command
raises one. -/
inductive Fault where
  deriving DecidableEq, Repr

/-- Refusals. Only a command without a meaning would be refused; every command has one. -/
inductive Refusal where
  /-- Raised by `exec`'s arm of a command that has no meaning yet; safe. No arm raises it. -/
  | notModelled (mnemonic : String)
  deriving DecidableEq, Repr

/-- One value per context. -/
structure Both (α : Type) where
  ctx0 : α
  ctx1 : α
  deriving DecidableEq, Repr

/-- The value of context `c`. -/
def Both.get {α : Type} (b : Both α) : Ctx → α
  | .ctx0 => b.ctx0
  | .ctx1 => b.ctx1

/-- The pair with the value of context `c` replaced. -/
def Both.set {α : Type} (b : Both α) (c : Ctx) (v : α) : Both α :=
  match c with
  | .ctx0 => ⟨v, b.ctx1⟩
  | .ctx1 => ⟨b.ctx0, v⟩

/-! ### Store loader (chapter 11) -/

/-- In reset while RESETn is low; otherwise LOADING or READY (section 11.1). -/
inductive PartState where
  | inReset
  | loading
  | ready
  deriving DecidableEq, Repr

/-- The image progress (section 11.1 (3)): the header is awaited, or `read` of `count` records are read. -/
inductive ImageProgress where
  | header
  | records (count read : Nat)
  deriving DecidableEq, Repr

/-- The bit rate of the lens position line (section 2.1, Table 11.1). -/
inductive LineRate where
  | baud250k
  | baud500k
  | baud1M
  | baud2M
  deriving DecidableEq, Repr

/-- STL. `image` is none outside LOADING; `spiSelect` is the select pin of the SPI master, true for asserted. -/
structure StoreLoader where
  part         : PartState
  pendingReset : Bool
  image        : Option ImageProgress
  storeFault   : Bool
  lineRate     : LineRate
  spiSelect    : Bool
  deriving DecidableEq, Repr

/-! ### Port bridge (chapter 1) -/

/-- The kind of an upstream response queue entry (R12). -/
inductive EntryKind where
  | passed
  | intercepted
  deriving DecidableEq, Repr

/-- An entry of the upstream response queue (R8, R12). `resp` is none while the entry waits. `issued` says whether
a pass write has been issued on the memory side. -/
structure RespEntry where
  kind   : EntryKind
  write  : UpWrite
  issued : Bool
  resp   : Option Resp
  deriving DecidableEq, Repr

/-- What becomes of a read (R14): forwarded, or answered for a context. -/
inductive ReadFate where
  | forward
  | answer (c : Ctx)
  deriving DecidableEq, Repr

/-- An entry of the read hold queue (R15). `waits` is absent when the read waits only behind an earlier one. -/
structure HoldEntry where
  read  : UpRead
  fate  : ReadFate
  waits : Option Ctx
  rows  : List Nat
  deriving DecidableEq, Repr

/-- A read on its way back: forwarded with `left` beats to come, or answered with the beats still to return (R18). -/
inductive ReadBody where
  | forwarded (left : Nat)
  | answering (beats : List BeatData)
  deriving DecidableEq, Repr

/-- A read taken, released and not yet returned whole. -/
structure ReadOut where
  tag  : Nat
  body : ReadBody
  deriving DecidableEq, Repr

/-- PB. `channel` holds the writes the pipeline presents that are not taken, oldest first (the model's own list, log 5);
`heldBy` is the context that holds its head back (R11, R140). -/
structure PortBridge where
  controlBase : Nat
  profileBase : Option Nat
  responses   : List RespEntry
  holds       : List HoldEntry
  reads       : List ReadOut
  channel     : List UpWrite
  heldBy      : Option Ctx
  deriving DecidableEq, Repr

/-! ### Lens line receiver, position monitor, track, estimator (chapters 2 and 3) -/

/-- The assembler (section 2.2 (1)): HUNT, or ASSEMBLE with the bytes held, first byte first. -/
inductive Assembler where
  | hunt
  | assemble (bytes : List Byte)
  deriving DecidableEq, Repr

/-- LLR (section 2.2). `lastEnd` is when the last held byte's stop bit ended (R22). -/
structure LineReceiver where
  asm       : Assembler
  lastEnd   : Time
  prevSeq   : Option Nat
  consecBad : Nat
  good      : BitVec 16
  bad       : BitVec 16
  missed    : BitVec 16
  latency   : Nat
  badLimit  : Nat
  deriving DecidableEq, Repr

/-- The position state (section 2.3 (1)). -/
inductive PosState where
  | lost
  | acquire
  | track
  deriving DecidableEq, Repr

/-- PMON (section 2.3). `timer` is the time of the last insertion while the timing window timer runs; `run` is the
implausible run's count and last focus. -/
structure PositionMonitor where
  pos         : PosState
  prevArrival : Option Time
  timer       : Option Time
  timely      : Nat
  run         : Option (Nat × Nat)
  early       : BitVec 16
  implausible : BitVec 16
  stale       : BitVec 16
  lower       : Nat
  upper       : Nat
  recover     : Nat
  jump        : Nat
  rehome      : Nat
  deriving DecidableEq, Repr

/-- A sample of the position track (section 3.1). -/
structure Sample where
  t     : Time
  focus : Nat
  iris  : Nat
  deriving DecidableEq, Repr

/-- PTRK: the samples, oldest first, and the last iris (section 3.1). -/
structure Track where
  samples  : List Sample
  lastIris : Option Nat
  deriving DecidableEq, Repr

/-- The estimator modes (section 3.2). -/
inductive EstMode where
  | latest
  | predict
  | await
  deriving DecidableEq, Repr

/-- The estimator settings of the TRACKING record (section 3.2). -/
structure Estimator where
  mode      : EstMode
  horizon   : Nat
  waitLimit : Nat
  deriving DecidableEq, Repr

/-! ### Epoch table (chapter 4) -/

/-- The shot setting (Table 4.2). -/
structure ShotSetting where
  hs     : Nat
  rp     : Nat
  e      : Nat
  offset : Int
  nb     : Nat
  dp     : Nat
  deriving DecidableEq, Repr

/-- The shot snapshot of an entry (Table 4.1). -/
structure Snapshot where
  hs     : Nat
  rp     : Nat
  e      : Nat
  offset : Int
  nb     : Nat
  deriving DecidableEq, Repr

/-- The kind of a band record (Table 6.1), in the order of Table 10.5. -/
inductive BandKind where
  | interpolated
  | predicted
  | latest
  | beforeTrack
  | lossHold
  | lossRest
  | lossNeutral
  | noProfile
  deriving DecidableEq, Repr

/-- The three shading coefficients of one channel, in 1/4096. -/
structure Coeffs where
  a1 : Int
  a2 : Int
  a3 : Int
  deriving DecidableEq, Repr

/-- The profile constants a band record carries (Table 6.1). -/
structure ProfileConsts where
  cx0 : Int
  cy0 : Int
  rx  : Nat
  ry  : Nat
  deriving DecidableEq, Repr

/-- A band record (Table 6.1); an absent field is none. -/
structure BandRecord where
  band      : Nat
  time      : Time
  kind      : BandKind
  deferred  : Bool
  waitedOut : Bool
  estimate  : Option Nat
  target    : Option Nat
  feff      : Option Nat
  iris      : Nat
  strength  : Nat
  k         : Int
  dx        : Int
  dy        : Int
  red       : Coeffs
  green     : Coeffs
  blue      : Coeffs
  profileId : Option Nat
  consts    : Option ProfileConsts
  deriving DecidableEq, Repr

/-- An epoch entry (Table 4.1). `id` is the model's own name of the entry (log 7); an UNPLANNED slot is none. -/
structure EpochEntry where
  id       : Nat
  markTime : Time
  marked   : Bool
  shot     : Snapshot
  consumed : Both Bool
  inUse    : Both Bool
  slots    : List (Option BandRecord)
  deriving DecidableEq, Repr

/-- MEPT: the entries, oldest first, and the shot setting (chapter 4). -/
structure EpochTable where
  entries : List EpochEntry
  nextId  : Nat
  shot    : ShotSetting
  deriving DecidableEq, Repr

/-! ### Profile store (chapter 5) -/

/-- A profile table as memory: (offset, byte) pairs, offsets strictly rising, none equal to 0 (log 8). -/
abbrev Table := List Host.Cell

/-- The reasons of Table 5.2. -/
inductive CommitReason where
  | pending
  | tag
  | length
  | coverage
  | check
  | counts
  | order
  | radius
  deriving DecidableEq, Repr

/-- The last commit outcome (section 5.1 (5)). -/
inductive CommitOutcome where
  | none
  | accepted (clamped : Bool)
  | rejected (reason : CommitReason)
  deriving DecidableEq, Repr

/-- PSTO (section 5.1). `hasActive` is false for the active profile NONE; `pendingSwap` is the staging state
PENDING; bit g of `coverage` is set when granule g is covered. -/
structure ProfileStore where
  activeTable  : Table
  stagingTable : Table
  hasActive    : Bool
  pendingSwap  : Bool
  coverage     : BitVec 128
  outcome      : CommitOutcome
  deriving DecidableEq, Repr

/-! ### Band planner (chapter 6) -/

/-- A waiting deferral (R50): the band it belongs to, its band time and its start. -/
structure Deferral where
  entry : Nat
  band  : Nat
  time  : Time
  start : Time
  deriving DecidableEq, Repr

/-- The motion state (R100); none is "unset". -/
structure Motion where
  target   : Option Nat
  feff     : Option Nat
  strength : Nat
  deriving DecidableEq, Repr

/-- The loss actions (R102, Table 6.2). -/
inductive LossAction where
  | hold
  | rest
  | neutral
  deriving DecidableEq, Repr

/-- The motion settings (Table 6.2). -/
structure MotionSettings where
  slew         : Nat
  strengthStep : Nat
  strengthGoal : Nat
  hysteresis   : Nat
  loss         : LossAction
  deriving DecidableEq, Repr

/-- BPLN (section 6.1). The cursor and a request name (entry, band). `begun` says that the first beginning of the
cursor's band, with its swap check, was made (R98 (2)). -/
structure Planner where
  cursor   : Option (Nat × Nat)
  begun    : Bool
  deferral : Option Deferral
  requests : Both (Option (Nat × Nat))
  motion   : Motion
  settings : MotionSettings
  deriving DecidableEq, Repr

/-! ### Line memory and contexts (chapters 7 and 8) -/

/-- LMEM: context 0's share of the 262144 slots, and the held split (R129). -/
structure LineMemory where
  share0 : Nat
  held   : Option Nat
  deriving DecidableEq, Repr

/-- The modes of Table 8.1, also the modes in effect. -/
inductive Mode where
  | transparent
  | shadeOnly
  | geometryOnly
  | correct
  deriving DecidableEq, Repr

/-- The views of Table 8.1. -/
inductive View where
  | normal
  | gainView
  deriving DecidableEq, Repr

/-- A context's settings (Table 8.1). `window` is the frame window's base and size mask, absent after reset. -/
structure Settings where
  window : Option (Nat × Word)
  width  : Nat
  height : Nat
  stride : Nat
  stall  : Nat
  mode   : Mode
  view   : View
  ox     : Int
  oy     : Int
  scale  : Nat
  blackR : Nat
  blackG : Nat
  blackB : Nat
  deriving DecidableEq, Repr

/-- A window in force: effective base and size (R4). -/
structure Extent where
  base : Nat
  size : Nat
  deriving DecidableEq, Repr

/-- A derived geometry (R115); `unitGain` is the gain choice UNIT. -/
structure Geometry where
  entry    : Nat
  band     : Nat
  cxc64    : Int
  cyc64    : Int
  rxc      : Nat
  ryc      : Nat
  ka       : Int
  clamped  : Bool
  unitGain : Bool
  deriving DecidableEq, Repr

/-- The five states of Table 8.2. -/
inductive CtxState where
  | off
  | idle
  | running
  | finishing
  | aborting
  deriving DecidableEq, Repr

/-- The outcomes of a report (R176, Table 10.4). -/
inductive FrameOutcome where
  | complete
  | abortSequence
  | abortStall
  | abortReset
  | status
  deriving DecidableEq, Repr

/-- The frame account (R151); `firstUncorrected` is none for "absent". -/
structure Account where
  rowsCorrected    : Nat
  firstUncorrected : Option Nat
  deferred         : Nat
  waitedOut        : Nat
  clamped          : Nat
  deriving DecidableEq, Repr

/-- The frame state of a frame in progress (section 8.3). The expected next address is kept as (`nextRow`, `nextX`),
the row and pixel column it falls on. `held` are the held rows from row `low` up, each with the pixels received.
`record` is the band record obtained for output row `e`. Raw rows `rawFrom` to `rawTo` − 1 have been drained,
`draining` says that the drain has begun. `unretired` are the rows written and not yet retired. `stall` is the time
the stall timer last restarted, none while it does not run. `outcome` is the abort's. -/
structure Frame where
  entry     : Nat
  nb        : Nat
  br        : Nat
  nextRow   : Nat
  nextX     : Nat
  low       : Nat
  held      : List (List Pixel)
  e         : Nat
  record    : Option BandRecord
  draining  : Bool
  rawFrom   : Nat
  rawTo     : Nat
  unretired : List Nat
  stall     : Option Time
  account   : Account
  outcome   : FrameOutcome
  deriving DecidableEq, Repr

/-- A context controller (chapter 8). `height` is the H in force after the clamp of R7, `mode` the mode in effect. -/
structure Context where
  state    : CtxState
  settings : Settings
  next     : Option Settings
  extent   : Option Extent
  height   : Nat
  depth    : Nat
  mode     : Mode
  frame    : Option Frame
  geo      : Option Geometry
  stray    : BitVec 16
  deriving DecidableEq, Repr

/-! ### Write arbiter (chapter 9) -/

/-- The four requesters of the memory-side write channel (section 9.1). -/
inductive Requester where
  | pass
  | emit0
  | emit1
  | report
  deriving DecidableEq, Repr

/-- One value per requester. -/
structure Four (α : Type) where
  pass   : α
  emit0  : α
  emit1  : α
  report : α
  deriving DecidableEq, Repr

/-- The value of requester `r`. -/
def Four.get {α : Type} (f : Four α) : Requester → α
  | .pass => f.pass
  | .emit0 => f.emit0
  | .emit1 => f.emit1
  | .report => f.report

/-- The four with the value of requester `r` replaced. -/
def Four.set {α : Type} (f : Four α) (r : Requester) (v : α) : Four α :=
  match r with
  | .pass => { f with pass := v }
  | .emit0 => { f with emit0 := v }
  | .emit1 => { f with emit1 := v }
  | .report => { f with report := v }

/-- The requester of a context (section 9.1). -/
def requesterFor : Ctx → Requester
  | .ctx0 => .emit0
  | .ctx1 => .emit1

/-- A burst laid out: its address and its beats (R154). -/
structure BurstPlan where
  addr  : Nat
  beats : Nat
  deriving DecidableEq, Repr

/-- What a run writes (R154): a pass write, an output row or a drained (raw) row of a context, or a report record. -/
inductive RunBody where
  | passWrite (w : UpWrite)
  | row (c : Ctx) (y : Nat) (raw : Bool)
  | record
  deriving DecidableEq, Repr

/-- A run: the bursts not yet issued, and whether its first burst has begun on the memory side (R154). -/
structure Run where
  body    : RunBody
  bursts  : List BurstPlan
  started : Bool
  deriving DecidableEq, Repr

/-- A burst that awaits its response (section 9.1 (6)). `row` is the row its run writes, for an EMIT burst; `last`
marks the last burst of its run. -/
structure IssuedBurst where
  row  : Nat
  last : Bool
  deriving DecidableEq, Repr

/-- WARB (section 9.1). `begun` says that the owner's next burst has begun on the memory side (R155); `timer` is the
latency timer's count while it runs. -/
structure Arbiter where
  prio    : Four Nat
  preempt : Bool
  latency : Nat
  runs    : Four (Option Run)
  owner   : Option Requester
  begun   : Bool
  grants  : List Requester
  timer   : Option Nat
  issued  : Four (List IssuedBurst)
  errors  : BitVec 16
  deriving DecidableEq, Repr

/-! ### Control records, events, reports (chapter 10) -/

/-- The last reject reason (section 10.1 (3)). -/
inductive RejectReason where
  | none
  | malformed
  | check
  | kind
  | target
  deriving DecidableEq, Repr

/-- CREC (section 10.1). -/
structure ControlUnit where
  consec   : Nat
  limit    : Nat
  reason   : RejectReason
  taken    : BitVec 16
  rejected : BitVec 16
  deriving DecidableEq, Repr

/-- The event kinds of Table 10.3, in the order of their positions. -/
inductive Event where
  | posTrack
  | posLost
  | posEarly
  | posImplausible
  | posRehome
  | lineFault
  | markOverrun
  | frameUnmarked
  | planWaitedOut
  | depthLimit
  | frameAbort
  | profileAccepted
  | profileRejected
  | profileActive
  | profileWriteIgnored
  | memoryError
  | reportDropped
  | controlFault
  | storeFault
  deriving DecidableEq, Repr

/-- The state of the attention line (R173); a gap keeps its start. ASSERTED drives ATTN low. -/
inductive LineState where
  | released
  | asserted
  | gap (start : Time)
  deriving DecidableEq, Repr

/-- EVU (section 10.2): bit p of `set` and `mask` stands for the kind at position p of Table 10.3. -/
structure EventUnit where
  set  : BitVec 19
  mask : BitVec 19
  line : LineState
  deriving DecidableEq, Repr

/-- A report record as composed (Tables 10.4 and 10.5). `context` and `mode` are none for a STATUS report, `marked`
none for "none". `probes` pairs each band of the span with its record, none for an absent one. -/
structure Report where
  seq              : Word
  outcome          : FrameOutcome
  context          : Option Ctx
  mode             : Option Mode
  pos              : PosState
  marked           : Option Bool
  pendingSwap      : Bool
  commit           : CommitOutcome
  markTime         : Time
  account          : Account
  events           : BitVec 19
  good             : BitVec 16
  bad              : BitVec 16
  early            : BitVec 16
  implausible      : BitVec 16
  stale            : BitVec 16
  missed           : BitVec 16
  taken            : BitVec 16
  rejected         : BitVec 16
  stray            : BitVec 16
  memErrors        : BitVec 16
  dropped          : BitVec 16
  reason           : RejectReason
  profileId        : Option Nat
  time             : Time
  probes           : List (Nat × Option BandRecord)
  deriving DecidableEq, Repr

/-- A queued record waits, is presented at a slot address, or is written and awaits its responses (section 10.3 (5)). -/
inductive ReportStage where
  | waiting
  | presented (addr : Nat)
  | written (addr : Nat)
  deriving DecidableEq, Repr

/-- A record of the report queue. -/
structure QueuedReport where
  report : Report
  stage  : ReportStage
  deriving DecidableEq, Repr

/-- RPW (section 10.3). -/
structure ReportWriter where
  base       : Nat
  slots      : Nat
  nextSlot   : Nat
  nextSeq    : Word
  probeFirst : Nat
  probeLast  : Nat
  queue      : List QueuedReport
  dropped    : BitVec 16
  deriving DecidableEq, Repr

/-- What a command put on the ports (log 3): an upstream write response, a read beat returned upstream, a burst
issued on the memory side, a read forwarded to the memory side, the SPI read command 0x03 with address 0. -/
inductive Output where
  | writeResponse (tag : Nat) (resp : Resp)
  | readBeat (tag : Nat) (data : BeatData) (resp : Resp)
  | memWrite (tag : Nat) (addr : Nat) (btype : BurstType) (size : Nat) (beats : List Beat)
  | memRead (r : UpRead)
  | spiRead (command : Byte) (address : BitVec 24)
  deriving DecidableEq, Repr

/-- The state of the part. `lineWait` is the model's own (log 20): the microseconds until a character whose start bit came
after the entry to READY can have ended (R20, R188 (4)). `outputs` (log 3) and `pending` are the model's own too. -/
structure State where
  time     : Time
  stl      : StoreLoader
  pb       : PortBridge
  llr      : LineReceiver
  pmon     : PositionMonitor
  ptrk     : Track
  fest     : Estimator
  mept     : EpochTable
  psto     : ProfileStore
  bpln     : Planner
  lmem     : LineMemory
  ctxs     : Both Context
  warb     : Arbiter
  crec     : ControlUnit
  evu      : EventUnit
  rpw      : ReportWriter
  lineWait : Nat
  outputs  : List Output
  pending  : List Instr
  deriving DecidableEq, Repr

/-! ### Named updates, one per block -/

def State.setTime (s : State) (v : Time) : State := { s with time := v }
def State.setStl (s : State) (v : StoreLoader) : State := { s with stl := v }
def State.setPb (s : State) (v : PortBridge) : State := { s with pb := v }
def State.setLlr (s : State) (v : LineReceiver) : State := { s with llr := v }
def State.setPmon (s : State) (v : PositionMonitor) : State := { s with pmon := v }
def State.setPtrk (s : State) (v : Track) : State := { s with ptrk := v }
def State.setFest (s : State) (v : Estimator) : State := { s with fest := v }
def State.setMept (s : State) (v : EpochTable) : State := { s with mept := v }
def State.setPsto (s : State) (v : ProfileStore) : State := { s with psto := v }
def State.setBpln (s : State) (v : Planner) : State := { s with bpln := v }
def State.setLmem (s : State) (v : LineMemory) : State := { s with lmem := v }
def State.setCtxs (s : State) (v : Both Context) : State := { s with ctxs := v }
def State.setWarb (s : State) (v : Arbiter) : State := { s with warb := v }
def State.setCrec (s : State) (v : ControlUnit) : State := { s with crec := v }
def State.setEvu (s : State) (v : EventUnit) : State := { s with evu := v }
def State.setRpw (s : State) (v : ReportWriter) : State := { s with rpw := v }
def State.setLineWait (s : State) (v : Nat) : State := { s with lineWait := v }
def State.setOutputs (s : State) (v : List Output) : State := { s with outputs := v }
def State.setPending (s : State) (v : List Instr) : State := { s with pending := v }

/-! ### Values after reset, block by block -/

/-- R182 to R186. The line rate before a header arrives is the built-in one (log 6). -/
def StoreLoader.reset : StoreLoader :=
  { part := .loading, pendingReset := false, image := some .header, storeFault := false,
    lineRate := .baud1M, spiSelect := true }

/-- The table of section 1.6. -/
def PortBridge.reset : PortBridge :=
  { controlBase := 0xFFFFFFF000, profileBase := none, responses := [], holds := [], reads := [], channel := [],
    heldBy := none }

/-- R39. -/
def LineReceiver.reset : LineReceiver :=
  { asm := .hunt, lastEnd := 0, prevSeq := none, consecBad := 0, good := 0, bad := 0, missed := 0, latency := 150,
    badLimit := 8 }

/-- R39 and the defaults of section 2.3. -/
def PositionMonitor.reset : PositionMonitor :=
  { pos := .lost, prevArrival := none, timer := none, timely := 0, run := none, early := 0, implausible := 0,
    stale := 0, lower := 300, upper := 5000, recover := 4, jump := 4096, rehome := 3 }

/-- R43. -/
def Track.reset : Track := { samples := [], lastIris := none }

/-- R57. -/
def Estimator.reset : Estimator := { mode := .predict, horizon := 8000, waitLimit := 4000 }

/-- The defaults of Table 4.2. -/
def ShotSetting.reset : ShotSetting := { hs := 2160, rp := 947, e := 10000, offset := 0, nb := 16, dp := 2000 }

/-- R72. -/
def EpochTable.reset : EpochTable := { entries := [], nextId := 0, shot := ShotSetting.reset }

/-- R92. -/
def ProfileStore.reset : ProfileStore :=
  { activeTable := [], stagingTable := [], hasActive := false, pendingSwap := false, coverage := 0, outcome := .none }

/-- The defaults of Table 6.2. -/
def MotionSettings.reset : MotionSettings :=
  { slew := 2048, strengthStep := 128, strengthGoal := 4096, hysteresis := 2, loss := .hold }

/-- R100, R113. -/
def Planner.reset : Planner :=
  { cursor := none, begun := false, deferral := none, requests := ⟨none, none⟩, motion := ⟨none, none, 0⟩,
    settings := MotionSettings.reset }

/-- R129. -/
def LineMemory.reset : LineMemory := { share0 := 196608, held := none }

/-- The defaults of Table 8.1. -/
def Settings.reset : Settings :=
  { window := none, width := 4096, height := 2160, stride := 32768, stall := 50000, mode := .transparent,
    view := .normal, ox := 0, oy := 0, scale := 4096, blackR := 2048, blackG := 2048, blackB := 2048 }

/-- R152, with the depth of R130 for the share after reset. -/
def Context.reset (depth : Nat) : Context :=
  { state := .off, settings := Settings.reset, next := none, extent := none, height := 2160, depth := depth,
    mode := .transparent, frame := none, geo := none, stray := 0 }

/-- Tables 9.1 and 9.2. -/
def Arbiter.reset : Arbiter :=
  { prio := ⟨3, 2, 2, 1⟩, preempt := true, latency := 16, runs := ⟨none, none, none, none⟩, owner := none,
    begun := false, grants := [], timer := none, issued := ⟨[], [], [], []⟩, errors := 0 }

/-- R170. -/
def ControlUnit.reset : ControlUnit := { consec := 0, limit := 4, reason := .none, taken := 0, rejected := 0 }

/-- R174. -/
def EventUnit.reset : EventUnit := { set := 0, mask := BitVec.allOnes 19, line := .released }

/-- R180. -/
def ReportWriter.reset : ReportWriter :=
  { base := 0, slots := 0, nextSlot := 0, nextSeq := 0, probeFirst := 0, probeLast := 3, queue := [], dropped := 0 }

/-- The machine right after reset: RESETn has risen, the time counter starts from 0, the part is LOADING and has
begun the image read (R182, R185). -/
def State.reset : State :=
  { time := 0, stl := StoreLoader.reset, pb := PortBridge.reset, llr := LineReceiver.reset,
    pmon := PositionMonitor.reset, ptrk := Track.reset, fest := Estimator.reset, mept := EpochTable.reset,
    psto := ProfileStore.reset, bpln := Planner.reset, lmem := LineMemory.reset,
    ctxs := ⟨Context.reset 48, Context.reset 16⟩, warb := Arbiter.reset, crec := ControlUnit.reset,
    evu := EventUnit.reset, rpw := ReportWriter.reset, lineWait := 0, outputs := [.spiRead 0x03 0], pending := [] }

end Sys2Proof.Machine
end

