-- ==== Sys2Proof/Machine/Ops.lean ====
section
/-! DEFINITION. The shared operations: time, ports, contexts by index, and the memory of the profile tables. -/

namespace Sys2Proof.Machine

/-- The state of context `c`. -/
def State.ctx (s : State) (c : Ctx) : Context := s.ctxs.get c

/-- The state with context `c` replaced. -/
def State.setCtx (s : State) (c : Ctx) (v : Context) : State := s.setCtxs (s.ctxs.set c v)

/-- `dt` microseconds pass. The counter stands at 0 while the part is in reset and counts without pause otherwise
(R58, R182), and the wait for the first character after the entry to READY runs down (R20, log 20). -/
def State.advance (s : State) (dt : Nat) : State :=
  if s.stl.part = .inReset then s else (s.setTime (s.time + BitVec.ofNat 32 dt)).setLineWait (s.lineWait - dt)

/-- The start of a command: its `dt` passes, and the ports show nothing yet. -/
def State.begin (s : State) (dt : Nat) : State := (s.advance dt).setOutputs []

/-- Something is put on a port. -/
def State.emit (s : State) (o : Output) : State := s.setOutputs (s.outputs ++ [o])

/-- An empty queue: one microsecond passes (log 1). -/
def State.idle (s : State) : State := s.begin 1

/-- The part is READY. -/
def State.isReady (s : State) : Bool := decide (s.stl.part = .ready)

/-- A record can reach the control record unit from the control window: the part is READY, no RESET ALL record is
pending (R183) and no write stands at the head of the write channel, since a write held back holds back every write
behind it (R1, R165). -/
def State.takesRecords (s : State) : Bool :=
  s.isReady && !s.stl.pendingReset && s.pb.channel.isEmpty

/-! ### The memory of a profile table -/

/-- The byte at offset `x`; an unlisted offset reads 0, as in an emptied table (R91). -/
def Table.read : Table → Nat → Byte
  | [], _ => 0
  | (a, b) :: t, x => if x = a then b else Table.read t x

/-- The table with byte `v` at offset `x`, in canonical form. -/
def Table.write : Table → Nat → Byte → Table
  | [], x, v => if v = 0 then [] else [(x, v)]
  | (a, b) :: t, x, v =>
    if x < a then (if v = 0 then (a, b) :: t else (x, v) :: (a, b) :: t)
    else if x = a then (if v = 0 then t else (x, v) :: t)
    else (a, b) :: Table.write t x v

/-- Canonical form above `lo`: offsets at least `lo`, strictly rising and below 4096, no byte equal to 0. -/
def Table.wfFrom : Nat → Table → Bool
  | _, [] => true
  | lo, (a, b) :: t => decide (lo ≤ a) && decide (a < 4096) && decide (b ≠ 0) && Table.wfFrom (a + 1) t

/-- The canonical form of a profile table (the memory's `wf`). -/
def Table.wf (t : Table) : Bool := Table.wfFrom 0 t

/-- `n` bytes from offset `x` as a little-endian number (section 4.5). -/
def Table.readLE (t : Table) (x : Nat) : Nat → Nat
  | 0 => 0
  | n + 1 => (Table.read t x).toNat + 256 * Table.readLE t (x + 1) n

/-- An unsigned 16-bit field. -/
def Table.u16 (t : Table) (x : Nat) : Nat := Table.readLE t x 2

/-- A signed 16-bit field. -/
def Table.i16 (t : Table) (x : Nat) : Int := (BitVec.ofNat 16 (Table.readLE t x 2)).toInt

/-- A signed 32-bit field. -/
def Table.i32 (t : Table) (x : Nat) : Int := (BitVec.ofNat 32 (Table.readLE t x 4)).toInt

/-- A signed 16-bit field is stored. -/
def Table.writeI16 (t : Table) (x : Nat) (v : Int) : Table :=
  let w := BitVec.ofInt 16 v
  (Table.write (Table.write t x (w.extractLsb' 0 8)) (x + 1) (w.extractLsb' 8 8))

end Sys2Proof.Machine
end

