-- ==== Sys2Proof/Machine/Operands.lean ====
section
/-! DEFINITION. Operand forms: the fields of control records (Tables 10.1 and 10.2) with their clamps, the checks of a
slot (R166), window extents (R4, R7) and the byte sets of upstream bursts (R3). -/

namespace Sys2Proof.Machine

/-! ### Words and their parts -/

/-- Word `i` of 32 bytes, little-endian (section 4.5). -/
def wordOf (d : BeatData) (i : Nat) : Word := d.extractLsb' (32 * i) 32

/-- The low half of a word. -/
def halfLo (w : Word) : Nat := (w.extractLsb' 0 16).toNat

/-- The high half of a word. -/
def halfHi (w : Word) : Nat := (w.extractLsb' 16 16).toNat

/-- The low half of a word, signed. -/
def signedLo (w : Word) : Int := (w.extractLsb' 0 16).toInt

/-- The high half of a word, signed. -/
def signedHi (w : Word) : Int := (w.extractLsb' 16 16).toInt

/-- Byte `i` of a word. -/
def byteOf (w : Word) (i : Nat) : Nat := (w.extractLsb' (8 * i) 8).toNat

/-- The 40-bit base that words 1 and 2 carry (Table 10.2). -/
def baseOf (lo hi : Word) : Nat := lo.toNat + byteOf hi 0 * 2 ^ 32

/-- The parameter words of a record (Table 10.1). -/
def paramsOf (d : BeatData) : Params :=
  ⟨wordOf d 1, wordOf d 2, wordOf d 3, wordOf d 4, wordOf d 5, wordOf d 6⟩

/-! ### The checks of a full slot -/

/-- The eight words sum to 0 modulo 2^32 (R166 (1)). -/
def checkSumOk (d : BeatData) : Bool :=
  decide (wordOf d 0 + wordOf d 1 + wordOf d 2 + wordOf d 3 + wordOf d 4 + wordOf d 5 + wordOf d 6 + wordOf d 7 = 0)

/-- The kind of a record. -/
def kindOf (d : BeatData) : Nat := halfLo (wordOf d 0)

/-- The target of a record. -/
def targetOf (d : BeatData) : Nat := halfHi (wordOf d 0)

/-- The target is valid for the kind (R166 (3)). -/
def targetOk (kind target : Nat) : Bool :=
  if kind = 2 ∨ kind = 3 then decide (target ≤ 1)
  else if kind = 14 then decide (target ≤ 4)
  else decide (target = 0)

/-- The reason for which a slot is rejected, none if it passes: a partial slot is MALFORMED (R165), a full one is
checked for CHECK, KIND and TARGET in this order (R166). -/
def slotReason (slot : Slot) : Option RejectReason :=
  if !slot.full then some .malformed
  else if !checkSumOk slot.data then some .check
  else if kindOf slot.data < 1 ∨ 14 < kindOf slot.data then some .kind
  else if !targetOk (kindOf slot.data) (targetOf slot.data) then some .target
  else none

end Sys2Proof.Machine

namespace Sys2Proof

open Sys2Proof.Machine

/-! ### The fields of each kind, clamped (R168, Table 10.2) -/

/-- SHOT (R68, Table 4.2). -/
def Params.shot (p : Params) : ShotSetting :=
  { hs := clampNat 1 8192 p.p1.toNat, rp := clampNat 1 16777215 p.p2.toNat, e := clampNat 0 1000000 p.p3.toNat,
    offset := signedLo p.p4, nb := clampNat 4 64 p.p5.toNat, dp := clampNat 0 1000000 p.p6.toNat }

/-- Width of CONTEXT_GEOMETRY: clamped to 16..8192, then rounded down to a multiple of 4 (Table 8.1). -/
def Params.width (p : Params) : Nat := clampNat 16 8192 (halfLo p.p4) / 4 * 4

/-- Stride of CONTEXT_GEOMETRY: rounded down to a multiple of 32, then raised to W × 8 if smaller (Table 8.1). -/
def Params.stride (p : Params) : Nat := max (p.p5.toNat / 32 * 32) (8 * p.width)

/-- CONTEXT_GEOMETRY written into settings (R131, Table 8.1). -/
def Params.geometry (p : Params) (st : Settings) : Settings :=
  { st with
    window := some (baseOf p.p1 p.p2, p.p3)
    width := p.width
    height := clampNat 16 4320 (halfHi p.p4)
    stride := p.stride
    stall := clampNat 100 1000000 p.p6.toNat }

/-- A mode field; a value naming no mode becomes CORRECT, the highest-numbered (Table 8.1, R168). -/
def modeOf : Nat → Mode
  | 0 => .transparent
  | 1 => .shadeOnly
  | 2 => .geometryOnly
  | _ => .correct

/-- A view field; a value naming no view becomes GAIN_VIEW (Table 8.1, R168). -/
def viewOf : Nat → View
  | 0 => .normal
  | _ => .gainView

/-- CONTEXT_OPTICS written into settings (R131, Table 8.1). -/
def Params.optics (p : Params) (st : Settings) : Settings :=
  { st with
    mode := modeOf (byteOf p.p1 0)
    view := viewOf (byteOf p.p1 1)
    ox := signedLo p.p2
    oy := signedHi p.p2
    scale := clampNat 256 4096 p.p3.toNat
    blackR := clampNat 0 8191 p.p4.toNat
    blackG := clampNat 0 8191 p.p5.toNat
    blackB := clampNat 0 8191 p.p6.toNat }

/-- The share of LINE_MEMORY: clamped to 0..262144, then rounded down to a multiple of 4096 (R129). -/
def Params.share (p : Params) : Nat := clampNat 0 262144 p.p1.toNat / 4096 * 4096

/-- An estimator mode field; a value naming no mode becomes AWAIT (R56). -/
def estModeOf : Nat → EstMode
  | 0 => .latest
  | 1 => .predict
  | _ => .await

/-- The estimator settings of TRACKING (R56). -/
def Params.estimator (p : Params) : Estimator :=
  { mode := estModeOf (byteOf p.p1 0), horizon := halfHi p.p3, waitLimit := halfLo p.p4 }

/-- The monitor's settings of TRACKING written into the monitor (R36). -/
def Params.monitor (p : Params) (m : PositionMonitor) : PositionMonitor :=
  { m with
    lower := halfLo p.p2
    upper := clampNat 100 65535 (halfHi p.p2)
    recover := clampNat 1 8 (byteOf p.p1 1)
    jump := clampNat 1 65535 (halfLo p.p3)
    rehome := clampNat 2 8 (byteOf p.p1 2) }

/-- A loss action field; a value naming no action becomes NEUTRAL (R111). -/
def lossOf : Nat → LossAction
  | 0 => .hold
  | 1 => .rest
  | _ => .neutral

/-- The motion settings of MOTION (R111, Table 6.2). -/
def Params.motion (p : Params) : MotionSettings :=
  { slew := clampNat 1 65535 (halfLo p.p1), strengthStep := clampNat 1 4096 (halfHi p.p1),
    strengthGoal := clampNat 0 4096 (halfLo p.p2), hysteresis := clampNat 0 255 (halfHi p.p2),
    loss := lossOf (byteOf p.p3 0) }

/-- The line settings of MOTION written into the receiver (R28). -/
def Params.line (p : Params) (l : LineReceiver) : LineReceiver :=
  { l with latency := halfLo p.p4, badLimit := clampNat 1 16 (byteOf p.p3 1) }

/-- The window of PROFILE_WINDOW (R76): off, or 4 KiB at the base with its low 12 bits cleared. -/
def Params.profileWindow (p : Params) : Option Nat :=
  if byteOf p.p2 1 = 0 then none else some (baseOf p.p1 p.p2 / 4096 * 4096)

/-- An event set named by a word; positions 19 to 31 are ignored (section 10.1). -/
def eventsOf (w : Word) : BitVec 19 := w.extractLsb' 0 19

/-- The consecutive-reject limit of EVENT_MASK, 1..16 (section 10.1 (2), R167). -/
def Params.rejectLimit (p : Params) : Nat := clampNat 1 16 p.p2.toNat

/-- The ring base of REPORT_RING with its low 8 bits cleared (R175). -/
def Params.ringBase (p : Params) : Nat := baseOf p.p1 p.p2 / 256 * 256

/-- The slot count of REPORT_RING (R175). -/
def Params.ringSlots (p : Params) : Nat := clampNat 0 256 p.p3.toNat

/-- The first band of the probe span (R175). -/
def Params.probeFirst (p : Params) : Nat := clampNat 0 63 (halfLo p.p4)

/-- The last band of the probe span: raised to the first, lowered to the first plus 3 (R175). -/
def Params.probeLast (p : Params) : Nat :=
  clampNat p.probeFirst (p.probeFirst + 3) (clampNat 0 63 (halfHi p.p4))

/-- The priorities of ARBITER, each 0..3 (R160). -/
def Params.priorities (p : Params) : Four Nat :=
  ⟨clampNat 0 3 (byteOf p.p1 0), clampNat 0 3 (byteOf p.p1 1), clampNat 0 3 (byteOf p.p1 2),
    clampNat 0 3 (byteOf p.p1 3)⟩

/-- The preemption enable of ARBITER (Table 10.2). -/
def Params.preempt (p : Params) : Bool := decide (byteOf p.p2 0 ≠ 0)

/-- The latency of ARBITER, 0..255 (R160). -/
def Params.latency (p : Params) : Nat := clampNat 0 255 p.p3.toNat

end Sys2Proof

namespace Sys2Proof.Machine

/-! ### Windows -/

/-- The number of consecutive one-bits of a mask counted upward from bit 0 (R4), of at most `n` bits. -/
def trailingOnes : Nat → Nat → Nat
  | 0, _ => 0
  | n + 1, m => if m % 2 = 1 then 1 + trailingOnes n (m / 2) else 0

/-- A frame window's extent (R4): size 2^z, at least 4 KiB, aligned to its size. -/
def extentOf (base : Nat) (mask : Word) : Extent :=
  let size := 2 ^ max 12 (trailingOnes 32 mask.toNat)
  ⟨base / size * size, size⟩

/-- Address `a` lies in the `size` bytes from `base`. A report ring whose end passes 2^40 is not wrapped: its region ends
with the address space, as no 40-bit address lies above (DESIGN CHOICE, log 24). -/
def inRegion (a base size : Nat) : Bool := decide (base ≤ a) && decide (a < base + size)

/-- The H in force: clamped to floor(size / stride) where H × stride exceeds the window (R7). -/
def heightIn (st : Settings) (x : Option Extent) : Nat :=
  match x with
  | none => st.height
  | some w => if w.size < st.height * st.stride then w.size / st.stride else st.height

/-- A frame area: base, stride, width and height (R7). -/
structure FrameArea where
  base   : Nat
  stride : Nat
  width  : Nat
  height : Nat
  deriving DecidableEq, Repr

/-- The frame area of a context, absent without a window or with an H of 0 in force (R7). -/
def Context.area (c : Context) : Option FrameArea :=
  match c.extent with
  | none => none
  | some x => if c.height = 0 then none else some ⟨x.base, c.settings.stride, c.settings.width, c.height⟩

/-- The byte at address `a` is a frame-area byte (R7). -/
def FrameArea.holds (f : FrameArea) (a : Nat) : Bool :=
  decide (f.base ≤ a) && decide ((a - f.base) / f.stride < f.height) && decide ((a - f.base) % f.stride < 8 * f.width)

/-- The address of column byte `col` of row `y` (R7). -/
def FrameArea.at (f : FrameArea) (y col : Nat) : Nat := f.base + y * f.stride + col

/-! ### The byte sets of a burst (R3) -/

/-- One past the last byte of an incrementing burst of `beats` full beats at address `a`. -/
def burstEnd (a beats : Nat) : Nat := a / 32 * 32 + 32 * beats

/-- How many bytes of row `y` lie in [first, last). -/
def FrameArea.overlap (f : FrameArea) (first last y : Nat) : Nat :=
  min last (f.at y (8 * f.width)) - max first (f.at y 0)

/-- The rows of the frame area that the bytes [first, last) touch (R14). -/
def FrameArea.rowsTouched (f : FrameArea) (first last : Nat) : List Nat :=
  if last ≤ first ∨ first < f.base then []
  else
    let r0 := (first - f.base) / f.stride
    let r1 := (last - 1 - f.base) / f.stride
    (List.range' r0 (r1 + 1 - r0)).filter fun y => decide (y < f.height) && decide (0 < f.overlap first last y)

/-- Every byte of [first, last) is a frame-area byte (R137 (4)). -/
def FrameArea.covers (f : FrameArea) (first last : Nat) : Bool :=
  decide (((f.rowsTouched first last).map (f.overlap first last)).sum = last - first)

end Sys2Proof.Machine

namespace Sys2Proof

open Sys2Proof.Machine

/-- First byte of a write. -/
def UpWrite.first (w : UpWrite) : Nat := w.addr.toNat

/-- One past the last byte of a write. -/
def UpWrite.last (w : UpWrite) : Nat := burstEnd w.addr.toNat w.beats.length

/-- First byte of a read. -/
def UpRead.first (r : UpRead) : Nat := r.addr.toNat

/-- One past the last byte of a read. -/
def UpRead.last (r : UpRead) : Nat := burstEnd r.addr.toNat r.len

/-- Every strobe of every beat is set (R137 (3)). -/
def UpWrite.fullStrobes (w : UpWrite) : Bool := w.beats.all fun b => decide (b.strb = BitVec.allOnes 32)

/-- The beats of a burst paired with the address each begins at, and the first byte of the beat that belongs to the
burst (R3). -/
def beatsFrom : Nat → Nat → List Beat → List (Nat × Nat × Beat)
  | _, _, [] => []
  | a, skip, b :: t => (a, skip, b) :: beatsFrom (a + 32) 0 t

/-- The beats of a write with their addresses (R3). -/
def UpWrite.placed (w : UpWrite) : List (Nat × Nat × Beat) :=
  beatsFrom (w.first / 32 * 32) (w.first % 32) w.beats

/-- The slots of the control window a burst touches, in increasing address order, wholly inside the window, each
marked full when every strobe of the slot is set and all its bytes belong to the burst (R9). -/
def UpWrite.slots (w : UpWrite) (base : Nat) : List Slot :=
  (w.placed.filter fun x => inRegion x.1 base 4096).map fun x =>
    ⟨x.2.2.data, decide (x.2.1 = 0) && decide (x.2.2.strb = BitVec.allOnes 32)⟩

end Sys2Proof
end

