-- ==== Sys2Proof/Machine/Flags.lean ====
section
/-! DEFINITION. The event unit: latching, acknowledging and masking events, and the attention line (R171 to R174). -/

namespace Sys2Proof.Machine

/-- The position of an event kind (Table 10.3). -/
def Event.pos : Event → Nat
  | .posTrack => 0
  | .posLost => 1
  | .posEarly => 2
  | .posImplausible => 3
  | .posRehome => 4
  | .lineFault => 5
  | .markOverrun => 6
  | .frameUnmarked => 7
  | .planWaitedOut => 8
  | .depthLimit => 9
  | .frameAbort => 10
  | .profileAccepted => 11
  | .profileRejected => 12
  | .profileActive => 13
  | .profileWriteIgnored => 14
  | .memoryError => 15
  | .reportDropped => 16
  | .controlFault => 17
  | .storeFault => 18

/-- The set that holds one kind. -/
def Event.bit (e : Event) : BitVec 19 := BitVec.ofNat 19 (2 ^ e.pos)

/-- The event set and the mask share a member. -/
def EventUnit.shares (u : EventUnit) : Bool := decide (u.set &&& u.mask ≠ 0)

/-- A kind is latched (R171). RELEASED becomes ASSERTED when the set and the mask come to share a member, but not
while the part is LOADING (R173). -/
def EventUnit.latch (u : EventUnit) (ready : Bool) (e : Event) : EventUnit :=
  let u' := { u with set := u.set ||| e.bit }
  match u.line with
  | .released => if ready && u'.shares then { u' with line := .asserted } else u'
  | .asserted => u'
  | .gap _ => u'

/-- EVENT_ACK (R172) and its effect on the line (R173). -/
def EventUnit.acknowledge (u : EventUnit) (now : Time) (named : BitVec 19) : EventUnit :=
  let u' := { u with set := u.set &&& ~~~named }
  match u.line with
  | .released => u'
  | .asserted => { u' with line := if u'.shares then .gap now else .released }
  | .gap _ => u'

/-- EVENT_MASK (R171) and its effect on the line (R173). -/
def EventUnit.remask (u : EventUnit) (ready : Bool) (mask : BitVec 19) : EventUnit :=
  let u' := { u with mask := mask }
  match u.line with
  | .released => if ready && u'.shares then { u' with line := .asserted } else u'
  | .asserted => if u'.shares then u' else { u' with line := .released }
  | .gap _ => u'

/-- The line as the set and the mask call for: at the end of a gap (R173 (3)) and at the entry to READY (R188 (2)). -/
def EventUnit.drive (u : EventUnit) : EventUnit :=
  { u with line := if u.shares then .asserted else .released }

/-- A block latches an event. -/
def State.latch (s : State) (e : Event) : State := s.setEvu (s.evu.latch s.isReady e)

/-- A block latches an event when `b` holds. -/
def State.latchIf (s : State) (b : Bool) (e : Event) : State :=
  s.setEvu (if b then s.evu.latch s.isReady e else s.evu)

end Sys2Proof.Machine
end

