-- ==== Sys2Proof/Machine/Arbitration.lean ====
section
/-! DEFINITION. The write arbiter (chapter 9): runs, the grant rule, and the latency timer. -/

namespace Sys2Proof.Machine

/-- The cycle order of R156. -/
def cycleOrder : List Requester := [.pass, .emit0, .emit1, .report]

/-- The requesters after `r` in the cycle order, wrapping, `r` itself last (R156 (1)). -/
def cycleAfter : Requester → List Requester
  | .pass => [.emit0, .emit1, .report, .pass]
  | .emit0 => [.emit1, .report, .pass, .emit0]
  | .emit1 => [.report, .pass, .emit0, .emit1]
  | .report => [.pass, .emit0, .emit1, .report]

/-- The write tag of a requester (R155). -/
def Requester.tag : Requester → Nat
  | .pass => 0
  | .emit0 => 1
  | .emit1 => 2
  | .report => 3

/-- The requester that a write tag names (R155). -/
def requesterOf : Nat → Option Requester
  | 0 => some .pass
  | 1 => some .emit0
  | 2 => some .emit1
  | 3 => some .report
  | _ => none

/-- Requester `r` is waiting (R154). -/
def Arbiter.waiting (a : Arbiter) (r : Requester) : Bool := (a.runs.get r).isSome

/-- The waiting requesters in the cycle order. -/
def Arbiter.waiters (a : Arbiter) : List Requester := cycleOrder.filter a.waiting

/-- The waiting requesters of the highest priority among those waiting (R156). -/
def Arbiter.tied (a : Arbiter) : List Requester :=
  a.waiters.filter fun r => a.waiters.all fun q => decide (a.prio.get q ≤ a.prio.get r)

/-- The requester a grant goes to (R156), none when no requester waits. -/
def Arbiter.choose (a : Arbiter) : Option Requester :=
  match a.grants.find? fun r => a.tied.contains r with
  | some lastGranted => (cycleAfter lastGranted).find? fun r => a.tied.contains r
  | none => a.tied.head?

/-- A grant when the channel has no owner and a requester waits (R156). -/
def Arbiter.grant (a : Arbiter) : Arbiter :=
  match a.owner with
  | some _ => a
  | none => match a.choose with
    | none => a
    | some r => { a with owner := some r, begun := false, timer := none,
                         grants := r :: a.grants.filter fun q => decide (q ≠ r) }

/-- A waiting requester of strictly higher priority than the owner exists (R158). -/
def Arbiter.challenged (a : Arbiter) : Bool :=
  match a.owner with
  | none => false
  | some o => a.waiters.any fun r => decide (a.prio.get o < a.prio.get r)

/-- The latency timer as the requests, the priorities and the enable call for (R158, R160). -/
def Arbiter.retime (a : Arbiter) : Arbiter :=
  { a with timer := if a.preempt && a.challenged then some (a.timer.getD 0) else none }

/-- The arbiter after an event: a free channel is granted, then the latency timer starts, goes on or stops. -/
def Arbiter.settle (a : Arbiter) : Arbiter := a.grant.retime

/-- A requester presents a run (R154). -/
def Arbiter.request (a : Arbiter) (r : Requester) (run : Run) : Arbiter := { a with runs := a.runs.set r (some run) }

/-- The latency timer stops, its count discarded, where no waiting requester stands above the owner (R158 (3)). -/
def Arbiter.unchallenge (a : Arbiter) : Arbiter := { a with timer := if a.challenged then a.timer else none }

/-- An EMIT run whose first burst has not begun is withdrawn (R146, R154). The owner becomes none where the run held the
channel, and the latency timer stops at once where the withdrawal leaves no requester above the owner (R158 (3)): a run
that the drain requests next starts it afresh. -/
def Arbiter.withdraw (a : Arbiter) (r : Requester) : Arbiter :=
  match a.runs.get r with
  | none => a
  | some run =>
    if run.started then a
    else
      ({ a with
         runs := a.runs.set r none
         owner := if a.owner = some r then none else a.owner } : Arbiter).unchallenge

/-- The owner stands at a burst boundary (R155): a burst of its run has been issued and the next has not begun. A run that
was begun and has no burst under way has issued one; so has a resumed run (section 9.1 (2), log 26). -/
def Arbiter.atBoundary (a : Arbiter) : Bool :=
  match a.owner with
  | none => false
  | some o => match a.runs.get o with
    | none => false
    | some run => run.started && !a.begun

/-- The owner is to be suspended at the boundary it stands at (R159): the timer has reached L, and the owner is not
PASS. -/
def Arbiter.suspensionDue (a : Arbiter) : Bool :=
  match a.owner, a.timer with
  | some o, some n => decide (o ≠ .pass) && decide (a.latency ≤ n) && a.atBoundary
  | _, _ => false

/-- The owner is suspended (R159). -/
def Arbiter.suspend (a : Arbiter) : Arbiter := { a with owner := none, timer := none }

/-- An owner that is to be suspended is suspended at once, and the channel is granted again (R159, R160 (2)). -/
def Arbiter.suspendIfDue (a : Arbiter) : Arbiter := if a.suspensionDue then a.suspend.settle else a

/-- The settings of an ARBITER record replace the arbiter's and apply at once: a free channel is granted by the new
priorities, the latency timer starts, goes on or stops, and an owner at a boundary whose count has reached the new L is
suspended (R160). -/
def Arbiter.configure (a : Arbiter) (prio : Four Nat) (preempt : Bool) (latency : Nat) : Arbiter :=
  ({ a with prio := prio, preempt := preempt, latency := latency } : Arbiter).settle.suspendIfDue

/-- The bursts that write `beats` beats of 32 bytes from address `a`, each ending at its 16th beat, at the end of
the bytes, or at a 4 KiB boundary (R142, R154). The first argument bounds the number of bursts. -/
def layoutBursts : Nat → Nat → Nat → List BurstPlan
  | 0, _, _ => []
  | fuel + 1, a, beats =>
    if beats = 0 then []
    else
      let n := min (min 16 beats) ((4096 - a % 4096) / 32)
      ⟨a, n⟩ :: layoutBursts fuel (a + 32 * n) (beats - n)

/-- The bursts of a row of `pixels` pixels at address `a`. -/
def rowBursts (a pixels : Nat) : List BurstPlan := layoutBursts (pixels / 4) a (pixels / 4)

/-- The eight bursts of a report record at slot address `a` (R154). -/
def reportBursts (a : Nat) : List BurstPlan := (List.range 8).map fun i => ⟨a + 32 * i, 1⟩

/-- A requester presents a run. -/
def State.request (s : State) (r : Requester) (run : Run) : State := s.setWarb (s.warb.request r run)

/-- An EMIT run is withdrawn if its first burst has not begun. -/
def State.withdraw (s : State) (r : Requester) : State := s.setWarb (s.warb.withdraw r)

end Sys2Proof.Machine
end

