-- ==== Sys2Proof/Machine/Profile.lean ====
section
/-! DEFINITION. The profile store (chapter 5): the profile format, capture, commit and swap. -/

namespace Sys2Proof.Machine

/-! ### The profile format (Table 5.1, R77) -/

/-- Declared length L in granules. -/
def Table.declaredLength (t : Table) : Nat := t.u16 4
/-- Focus node count n. -/
def Table.nodes (t : Table) : Nat := Table.readLE t 6 1
/-- Iris node count m. -/
def Table.irises (t : Table) : Nat := Table.readLE t 7 1
/-- Profile id. -/
def Table.profileId (t : Table) : Nat := t.u16 8
/-- Rest position. -/
def Table.rest (t : Table) : Nat := t.u16 10
/-- Nominal centre and normalisation radii. -/
def Table.consts (t : Table) : ProfileConsts := ⟨t.i32 12, t.i32 16, t.u16 20, t.u16 22⟩
/-- Iris position I_j. -/
def Table.iris (t : Table) (j : Nat) : Nat := t.u16 (32 + 2 * j)
/-- Focus position P_i. -/
def Table.focus (t : Table) (i : Nat) : Nat := t.u16 (40 + 8 * i)
/-- Ratio offset Kofs_i. -/
def Table.kofs (t : Table) (i : Nat) : Int := t.i16 (42 + 8 * i)
/-- Centre shift DX_i. -/
def Table.dx (t : Table) (i : Nat) : Int := t.i16 (44 + 8 * i)
/-- Centre shift DY_i. -/
def Table.dy (t : Table) (i : Nat) : Int := t.i16 (46 + 8 * i)
/-- Coefficient `q` (0..8: R A1, R A2, R A3, G A1, …, B A3) of the cell of focus node i and iris node j. -/
def Table.cell (t : Table) (i j q : Nat) : Int := t.i16 (40 + 8 * t.nodes + 18 * (i * t.irises + j) + 2 * q)

/-- Required size in bytes (R78). -/
def requiredSize (n m : Nat) : Nat := 40 + 8 * n + 18 * n * m

/-! ### Capture (R73 to R75) -/

/-- One beat copied into a table: the strobed bytes that belong to the burst and lie below offset 4096. -/
def copyBytes (t : Table) (off skip : Nat) (b : Beat) : Nat → Table
  | 0 => t
  | n + 1 =>
    let t' := copyBytes t off skip b n
    if skip ≤ n && b.strb.getLsbD n && decide (off + n < 4096) then Table.write t' (off + n) (b.data.extractLsb' (8 * n) 8)
    else t'

/-- A beat handed to the profile store: its bytes are copied, and its granule is covered when the burst set all 32
of its strobes (R73, R74). -/
def ProfileStore.copyBeat (p : ProfileStore) (base : Nat) (x : Nat × Nat × Beat) : ProfileStore :=
  let off := x.1 - base
  { p with
    stagingTable := copyBytes p.stagingTable off x.2.1 x.2.2 32
    coverage :=
      if x.2.1 = 0 ∧ x.2.2.strb = BitVec.allOnes 32 ∧ off < 4096 then p.coverage ||| BitVec.ofNat 128 (2 ^ (off / 32))
      else p.coverage }

/-- A write whose first byte lies in the profile window at `base` (R10): copied in OPEN, and in PENDING passed
without a copy, latching PROFILE_WRITE_IGNORED (R75). -/
def State.captureProfile (s : State) (base : Nat) (w : UpWrite) : State :=
  if s.psto.pendingSwap then s.latch .profileWriteIgnored
  else s.setPsto (w.placed.foldl (fun p x => p.copyBeat base x) s.psto)

/-! ### Commit (R79 to R86) -/

/-- Granules 0..n−1 are all covered (R82). -/
def coveredBelow (c : BitVec 128) : Nat → Bool
  | 0 => true
  | n + 1 => c.getLsbD n && coveredBelow c n

/-- The sum modulo 2^32 of the first `n` little-endian words (R83). -/
def wordSum (t : Table) : Nat → Word
  | 0 => 0
  | n + 1 => wordSum t n + BitVec.ofNat 32 (Table.readLE t (4 * n) 4)

/-- The first `n` values are strictly increasing (R85). -/
def increasing (f : Nat → Nat) : Nat → Bool
  | 0 => true
  | 1 => true
  | n + 2 => decide (f n < f (n + 1)) && increasing f (n + 1)

/-- The first failing check of Table 5.2, none for a commit that passes all eight. -/
def ProfileStore.commitReason (p : ProfileStore) : Option CommitReason :=
  let t := p.stagingTable
  let len := t.declaredLength
  let n := t.nodes
  let m := t.irises
  if p.pendingSwap then some .pending
  else if ¬(t.read 0 = 0x55 ∧ t.read 1 = 0x4A ∧ t.read 2 = 0x50 ∧ t.read 3 = 0x31) then some .tag
  else if len < 2 ∨ 128 < len then some .length
  else if !coveredBelow p.coverage len then some .coverage
  else if wordSum t (8 * len) ≠ 0 then some .check
  else if n < 2 ∨ 32 < n ∨ m < 1 ∨ 4 < m ∨ len * 32 < requiredSize n m then some .counts
  else if !(increasing t.focus n && increasing t.iris m) then some .order
  else if t.u16 20 = 0 ∨ t.u16 22 = 0 then some .radius
  else none

/-- The ratio offsets of nodes 0..n−1 replaced by their clamped values (R86). -/
def clampOffsets (t : Table) : Nat → Table
  | 0 => t
  | n + 1 =>
    let t' := clampOffsets t n
    if t.kofs n < -4096 then t'.writeI16 (42 + 8 * n) (-4096)
    else if 4096 < t.kofs n then t'.writeI16 (42 + 8 * n) 4096
    else t'

/-- Some ratio offset of nodes 0..n−1 lies outside −4096..+4096 (R86). -/
def needsClamp (t : Table) : Nat → Bool
  | 0 => false
  | n + 1 => decide (t.kofs n < -4096) || decide (4096 < t.kofs n) || needsClamp t n

/-- A commit (R79, R80, R86). -/
def ProfileStore.commit (p : ProfileStore) : ProfileStore :=
  match p.commitReason with
  | some r => { p with outcome := .rejected r }
  | none =>
    { p with
      stagingTable := clampOffsets p.stagingTable p.stagingTable.nodes
      pendingSwap := true
      outcome := .accepted (needsClamp p.stagingTable p.stagingTable.nodes) }

/-- PROFILE_COMMIT taken (R79): the commit and its event (R93). -/
def State.commitProfile (s : State) : State :=
  (s.setPsto s.psto.commit).latch (if s.psto.commitReason.isNone then .profileAccepted else .profileRejected)

/-! ### Swap (R87, R88) -/

/-- The tables exchange roles (R87 (1) to (3)). -/
def ProfileStore.swap (p : ProfileStore) : ProfileStore :=
  { p with
    activeTable := p.stagingTable
    stagingTable := p.activeTable
    hasActive := true
    pendingSwap := false
    coverage := 0 }

/-- The swap made when band 0 of an entry is begun with staging PENDING (R87), with the first activation of R88. -/
def State.swapProfiles (s : State) : State :=
  let rest := s.psto.stagingTable.rest
  let motion := if s.psto.hasActive then s.bpln.motion
    else { s.bpln.motion with target := some rest, feff := some rest }
  ((s.setPsto s.psto.swap).setBpln { s.bpln with motion := motion }).latch .profileActive

/-- The active profile's id, none while the active profile is NONE (R93). -/
def State.activeId (s : State) : Option Nat := if s.psto.hasActive then some s.psto.activeTable.profileId else none

end Sys2Proof.Machine
end

