-- ==== Sys2Proof/Machine/Correct.lean ====
section
/-! DEFINITION. The correction chain: stages A and B of the band planner (R105 to R108) and stages C to H of the
correction engine (R115 to R126). `/` of integers by a positive divisor is floor (section 4.3). -/

namespace Sys2Proof.Machine

/-! ### Stage A: profile interpolation -/

/-- The largest index up to `k` whose position is not greater than `x`. -/
def lastBelow (pos : Nat → Nat) (x : Nat) : Nat → Nat
  | 0 => 0
  | k + 1 => if pos (k + 1) ≤ x then k + 1 else lastBelow pos x k

/-- A pair of nodes and the weight of the second (R105, R106). -/
structure Bracket where
  i0 : Nat
  i1 : Nat
  w  : Nat
  deriving DecidableEq, Repr

/-- The pair around `x` among `n` positions (R105, R106). -/
def bracket (pos : Nat → Nat) (n x : Nat) : Bracket :=
  if x ≤ pos 0 then ⟨0, 0, 0⟩
  else if pos (n - 1) ≤ x then ⟨n - 1, n - 1, 0⟩
  else
    let i := lastBelow pos x (n - 1)
    ⟨i, i + 1, (x - pos i) * 4096 / (pos (i + 1) - pos i)⟩

/-- The interpolated correction of stage A (R107). -/
structure StageA where
  kRaw  : Int
  dx    : Int
  dy    : Int
  red   : Coeffs
  green : Coeffs
  blue  : Coeffs
  deriving DecidableEq, Repr

/-- One shading coefficient: across iris within each focus node, then across focus (R107 (3)). -/
def shadeAt (t : Table) (f i : Bracket) (q : Nat) : Int :=
  lerp (lerp (t.cell f.i0 i.i0 q) (t.cell f.i0 i.i1 q) i.w) (lerp (t.cell f.i1 i.i0 q) (t.cell f.i1 i.i1 q) i.w) f.w

/-- Stage A at an effective focus and an iris (R105 to R107). -/
def stageA (t : Table) (feff iris : Nat) : StageA :=
  let f := bracket t.focus t.nodes feff
  let i := bracket t.iris t.irises iris
  { kRaw := 65536 + lerp (t.kofs f.i0) (t.kofs f.i1) f.w
    dx := lerp (t.dx f.i0) (t.dx f.i1) f.w
    dy := lerp (t.dy f.i0) (t.dy f.i1) f.w
    red := ⟨shadeAt t f i 0, shadeAt t f i 1, shadeAt t f i 2⟩
    green := ⟨shadeAt t f i 3, shadeAt t f i 4, shadeAt t f i 5⟩
    blue := ⟨shadeAt t f i 6, shadeAt t f i 7, shadeAt t f i 8⟩ }

/-! ### Stage B: strength (R108) -/

/-- A value of stage A scaled by the strength. -/
def scaleBy (a : Int) (s : Nat) : Int := (a * (s : Int) + 2048) / 4096

/-- The three coefficients of a channel scaled by the strength. -/
def Coeffs.scale (c : Coeffs) (s : Nat) : Coeffs := ⟨scaleBy c.a1 s, scaleBy c.a2 s, scaleBy c.a3 s⟩

/-- The breathing ratio after strength. -/
def scaledRatio (kRaw : Int) (s : Nat) : Int := 65536 + scaleBy (kRaw - 65536) s

/-! ### Stage C: the band in the context's grid (R115 to R118, R126) -/

/-- Vertical reach M (R118). -/
def verticalReach (cyc64 : Int) (h : Nat) : Int :=
  let m := max (ceilDivInt cyc64 64) ((h : Int) - 1 - cyc64 / 64)
  if m ≤ 0 then 1 else m

/-- Allowed deviation Δ (R118). -/
def allowedDeviation (depth : Nat) (m : Int) : Int := ((depth : Int) - 3) * 65536 / m

/-- A geometry derived from a band record of an entry for a context (R115 to R118, R126). -/
def deriveGeometry (c : Context) (entry : Nat) (r : BandRecord) : Geometry :=
  let k0 := r.consts.getD ⟨0, 0, 1, 1⟩
  let sc : Int := c.settings.scale
  let cyc64 := ((k0.cy0 + r.dy - 16 * c.settings.oy) * sc + 512) / 1024
  let dev := allowedDeviation c.depth (verticalReach cyc64 c.height)
  let breathes := (c.mode = .correct ∨ c.mode = .geometryOnly) ∧ r.kind ≠ .noProfile
  let ka := if breathes then clampInt (65536 - dev) (65536 + dev) r.k else 65536
  { entry := entry
    band := r.band
    cxc64 := ((k0.cx0 + r.dx - 16 * c.settings.ox) * sc + 512) / 1024
    cyc64 := cyc64
    rxc := max 1 ((k0.rx * c.settings.scale + 2048) / 4096)
    ryc := max 1 ((k0.ry * c.settings.scale + 2048) / 4096)
    ka := ka
    clamped := decide (breathes ∧ ka ≠ r.k)
    unitGain := decide (c.mode = .geometryOnly) }

/-! ### Stage D: source coordinates (R119) -/

/-- The source coordinate of output coordinate `x` about centre `c64`, in 1/64 pixel. -/
def sourceOf (c64 ka : Int) (x : Nat) : Int := c64 + ((64 * (x : Int) - c64) * ka + 32768) / 65536

/-- xs64 of output column `x`. -/
def Geometry.xs64 (g : Geometry) (x : Nat) : Int := sourceOf g.cxc64 g.ka x

/-- ys64 of output row `y`. -/
def Geometry.ys64 (g : Geometry) (y : Nat) : Int := sourceOf g.cyc64 g.ka y

/-- yi of output row `y`, unclamped (R143). -/
def Geometry.yi (g : Geometry) (y : Nat) : Int := g.ys64 y / 64

/-- A position clamped into 0..n−1 (R120, R121). -/
def clampIndex (n : Nat) (v : Int) : Nat := (clampInt 0 ((n : Int) - 1) v).toNat

/-- The source rows that output row `y` needs, of a frame of `h` rows (R120). -/
def Geometry.needed (g : Geometry) (h y : Nat) : List Nat :=
  let r0 := clampIndex h (g.yi y)
  let r1 := clampIndex h (g.yi y + 1)
  if g.ys64 y % 64 = 0 ∨ r1 = r0 then [r0] else [r0, r1]

/-! ### Stage E: the source value (R121, R122) -/

/-- Channel `i` of a pixel: 0 R, 1 G, 2 B, 3 X (section 4.4). -/
def channel (p : Pixel) (i : Nat) : Nat := (p.extractLsb' (16 * i) 16).toNat

/-- The bilinear value of one channel from the values and weights of the four neighbours. A neighbour of weight 0
contributes nothing (R122). -/
def bilinear (fx fy p00 p10 p01 p11 : Nat) : Nat :=
  ((64 - fx) * (64 - fy) * p00 + fx * (64 - fy) * p10 + (64 - fx) * fy * p01 + fx * fy * p11 + 2048) / 4096

/-! ### Stages F and G: the shading gain (R123, R124) -/

/-- Q: the normalised squared radius of a source position (R123). -/
def radiusQ (g : Geometry) (xs64 ys64 : Int) : Int :=
  let dx := xs64 - g.cxc64
  let dy := ys64 - g.cyc64
  min 262144 (dx * dx * 16 / ((g.rxc : Int) * g.rxc) + dy * dy * 16 / ((g.ryc : Int) * g.ryc))

/-- G_c of one channel at Q (R124). -/
def gainAt (c : Coeffs) (q : Int) : Int :=
  let q2 := (q * q + 32768) / 65536
  let q3 := (q2 * q + 32768) / 65536
  clampInt 2048 32767 (4096 + (c.a1 * q + c.a2 * q2 + c.a3 * q3 + 32768) / 65536)

/-- The gain of one channel at a source position under the geometry's gain choice (R124, R126). -/
def Geometry.gain (g : Geometry) (c : Coeffs) (xs64 ys64 : Int) : Int :=
  if g.unitGain then 4096 else gainAt c (radiusQ g xs64 ys64)

/-! ### Stage H: black level and saturation (R125) -/

/-- One output channel. -/
def applyGain (black v : Nat) (gain : Int) : Nat :=
  (clampInt 0 65535 ((black : Int) + (((v : Int) - black) * gain + 2048) / 4096)).toNat

/-- A pixel from its four channels (section 4.4). -/
def packPixel (r g b x : Nat) : Pixel :=
  BitVec.ofNat 16 x ++ BitVec.ofNat 16 b ++ BitVec.ofNat 16 g ++ BitVec.ofNat 16 r

/-- The corrected output pixel (x, y) of a context (stages D to H), reading source pixels with `fetch` by row and
column. A neighbour of weight 0 is not read (R122). -/
def correctPixel (st : Settings) (h : Nat) (g : Geometry) (r : BandRecord) (fetch : Nat → Nat → Pixel) (x y : Nat) :
    Pixel :=
  let xs := g.xs64 x
  let ys := g.ys64 y
  let fx := (xs % 64).toNat
  let fy := (ys % 64).toNat
  let x0 := clampIndex st.width (xs / 64)
  let x1 := clampIndex st.width (xs / 64 + 1)
  let y0 := clampIndex h (ys / 64)
  let y1 := clampIndex h (ys / 64 + 1)
  let p00 := fetch y0 x0
  let p10 := if fx = 0 then 0 else fetch y0 x1
  let p01 := if fy = 0 then 0 else fetch y1 x0
  let p11 := if fx = 0 ∨ fy = 0 then 0 else fetch y1 x1
  let v (i : Nat) : Nat := bilinear fx fy (channel p00 i) (channel p10 i) (channel p01 i) (channel p11 i)
  packPixel (applyGain st.blackR (v 0) (g.gain r.red xs ys)) (applyGain st.blackG (v 1) (g.gain r.green xs ys))
    (applyGain st.blackB (v 2) (g.gain r.blue xs ys)) (channel p00 3)

/-- The pixel a gain-view answer gives at (x, y) (R18, R127). -/
def gainPixel (g : Geometry) (r : BandRecord) (x y : Nat) : Pixel :=
  let v (c : Coeffs) : Nat := (min 65535 (4 * g.gain c (g.xs64 x) (g.ys64 y))).toNat
  packPixel (v r.red) (v r.green) (v r.blue) 0

/-- The pixel a gain-view answer gives where no gain is computed: unity, 16384 in each channel (R18, R127). -/
def unityGainPixel : Pixel := packPixel 16384 16384 16384 0

end Sys2Proof.Machine
end

