-- ==== Sys2Proof/Machine/Epoch.lean ====
section
/-! DEFINITION. The epoch table (R60 to R67), band rows and band time (R69 to R71), and how the plan cursor follows
the table (R94, R99). -/

namespace Sys2Proof.Machine

/-! ### Band arithmetic -/

/-- Band rows BR of an entry (R69). -/
def Snapshot.br (s : Snapshot) : Nat := ceilDiv s.hs s.nb

/-- The middle row of band b (R69). -/
def Snapshot.mid (s : Snapshot) (b : Nat) : Nat := b * s.br + s.br / 2

/-- The band time Tb of band b of an entry (R70), reduced modulo 2^32 after every term is added. -/
def EpochEntry.bandTime (e : EpochEntry) (b : Nat) : Time :=
  BitVec.ofInt 32
    ((e.markTime.toNat : Int) + ((e.shot.mid b * e.shot.rp / 256 : Nat) : Int) - ((e.shot.e / 2 : Nat) : Int)
      + e.shot.offset)

/-- The band of output row y of a context (R71). Rows with s below 0 map to band 0. -/
def bandOfRow (st : Settings) (nb br y : Nat) : Nat :=
  let s : Int := st.oy + ((y * 4096 / st.scale : Nat) : Int)
  min (nb - 1) ((s / (br : Int)).toNat)

/-- The snapshot of the shot setting (R60 (3)). -/
def ShotSetting.snapshot (s : ShotSetting) : Snapshot := ⟨s.hs, s.rp, s.e, s.offset, s.nb⟩

/-! ### Looking up the table -/

/-- The held entry of that name. -/
def EpochTable.find (m : EpochTable) (id : Nat) : Option EpochEntry := m.entries.find? fun e => decide (e.id = id)

/-- The band record of band b of an entry, none while UNPLANNED or not held. -/
def EpochTable.recordAt (m : EpochTable) (id b : Nat) : Option BandRecord :=
  match m.find id with
  | some e => (e.slots[b]?).join
  | none => none

/-- The entry changed by `f`. -/
def EpochTable.update (m : EpochTable) (id : Nat) (f : EpochEntry → EpochEntry) : EpochTable :=
  { m with entries := m.entries.map fun e => if e.id = id then f e else e }

/-- The first held entry created after the entry named `id`. -/
def nextEntry (es : List EpochEntry) (id : Nat) : Option Nat := (es.find? fun e => decide (id < e.id)).map (·.id)

/-- The planned records of an entry, each with the entry, in band order. -/
def plannedOf (e : EpochEntry) : List (EpochEntry × BandRecord) := (e.slots.filterMap id).map fun r => (e, r)

/-- The newest planned band record still held, with its entry (R109): the last in (entry, band) order. -/
def EpochTable.newestPlanned (m : EpochTable) : Option (EpochEntry × BandRecord) :=
  (m.entries.flatMap plannedOf).getLast?

/-! ### Dropping entries (R61, R66, R94 (3), R99) -/

/-- The planner after the table has kept only `kept`: a cursor into a dropped entry moves to band 0 of the next held
entry or becomes none, and the deferral that waited there is discarded. -/
def Planner.follow (p : Planner) (kept : List EpochEntry) : Planner :=
  match p.cursor with
  | none => p
  | some (id, _) =>
    if kept.any fun e => decide (e.id = id) then p
    else { p with cursor := (nextEntry kept id).map fun i => (i, 0), begun := false, deferral := none }

/-- The table holds the entries `kept` from now on; the planner follows. -/
def State.holdEntries (s : State) (kept : List EpochEntry) : State :=
  (s.setMept { s.mept with entries := kept }).setBpln (s.bpln.follow kept)

/-- No context has the entry in use. -/
def EpochEntry.idle (e : EpochEntry) : Bool := !e.inUse.ctx0 && !e.inUse.ctx1

/-- Every context that is not OFF has consumed the entry, and none has it in use (R66). -/
def State.removalDue (s : State) (e : EpochEntry) : Bool :=
  (decide (s.ctxs.ctx0.state = .off) || e.consumed.ctx0) && (decide (s.ctxs.ctx1.state = .off) || e.consumed.ctx1) &&
    e.idle

/-- The removal conditions are examined (R66). -/
def State.examineEntries (s : State) : State := s.holdEntries (s.mept.entries.filter fun e => !s.removalDue e)

/-- The entries that an eviction leaves, in their order: it removes the oldest entry not in use (R61). Such an entry exists
whenever the table is full, as at most two entries are in use; should none exist the oldest is taken. -/
def evict (es : List EpochEntry) : List EpochEntry := if es.any (·.idle) then es.eraseP (·.idle) else es.tail

/-- Room is made for a creation: a full table evicts, and MARK_OVERRUN latches (R61). -/
def State.makeRoom (s : State) : State :=
  if s.mept.entries.length < 4 then s else (s.holdEntries (evict s.mept.entries)).latch .markOverrun

/-- A cursor that is none moves to band 0 of a created entry (R94 (1)). -/
def Planner.meet (p : Planner) (id : Nat) : Planner :=
  match p.cursor with
  | none => { p with cursor := some (id, 0), begun := false }
  | some _ => p

/-- The entry a creation appends (R60). -/
def EpochTable.newEntry (m : EpochTable) (markTime : Time) (marked : Bool) (flags : Both Bool) : EpochEntry :=
  { id := m.nextId, markTime := markTime, marked := marked, shot := m.shot.snapshot, consumed := flags, inUse := flags,
    slots := List.replicate m.shot.nb none }

/-- An entry is appended at the newest end (R60). -/
def State.appendEntry (s : State) (markTime : Time) (marked : Bool) (flags : Both Bool) : State :=
  (s.setMept
    { s.mept with
      entries := s.mept.entries ++ [s.mept.newEntry markTime marked flags]
      nextId := s.mept.nextId + 1 }).setBpln (s.bpln.meet s.mept.nextId)

/-- An entry is created (R60, R61); `flags` are its consumed and in-use flags. -/
def State.createEntry (s : State) (markTime : Time) (marked : Bool) (flags : Both Bool) : State :=
  s.makeRoom.appendEntry markTime marked flags

/-! ### Binding (R62 to R65) -/

/-- The oldest entry that context `c` has not consumed (R63). -/
def EpochTable.unconsumed (m : EpochTable) (c : Ctx) : Option EpochEntry :=
  m.entries.find? fun e => !e.consumed.get c

/-- The flags of an unmarked entry: set for the starting context (R60 (4)). -/
def flagsFor (c : Ctx) : Both Bool := (⟨false, false⟩ : Both Bool).set c true

/-- The flags of an entry that a starting frame of context `c` binds (R63). -/
def EpochEntry.bind (e : EpochEntry) (c : Ctx) : EpochEntry :=
  { e with consumed := e.consumed.set c true, inUse := e.inUse.set c true }

/-- A starting frame binds an entry (R63), creating an unmarked one when none is unconsumed (R64). The second
component names the bound entry. -/
def State.bindEpoch (s : State) (c : Ctx) : State × Nat :=
  match s.mept.unconsumed c with
  | some e => (s.setMept (s.mept.update e.id fun e => e.bind c), e.id)
  | none =>
    ((s.latch .frameUnmarked).createEntry (s.time - BitVec.ofNat 32 s.mept.shot.dp) false (flagsFor c), s.mept.nextId)

/-- The in-use flag of a context's bound entry is cleared (R65). -/
def State.releaseEntry (s : State) (c : Ctx) (id : Nat) : State :=
  s.setMept (s.mept.update id fun e => { e with inUse := e.inUse.set c false })

/-- A context leaving OFF has consumed every entry then held (R62). -/
def State.consumeAll (s : State) (c : Ctx) : State :=
  s.setMept { s.mept with entries := s.mept.entries.map fun e => { e with consumed := e.consumed.set c true } }

end Sys2Proof.Machine
end

