-- ==== Sys2Proof/Machine/Reads.lean ====
section
/-! DEFINITION. Classification (R6), reads (R14 to R18, R127), and the upstream response queue (R12). -/

namespace Sys2Proof.Machine

/-! ### Classification (R6) -/

/-- The region an address falls into. -/
inductive Region where
  | ring
  | control
  | profile (base : Nat)
  | frame (c : Ctx)
  | outside
  deriving DecidableEq, Repr

/-- The address lies in frame window `c`. -/
def State.inFrameWindow (s : State) (c : Ctx) (a : Nat) : Bool :=
  match (s.ctx c).extent with
  | some x => inRegion a x.base x.size
  | none => false

/-- The address lies in the profile window. -/
def State.inProfileWindow (s : State) (a : Nat) : Bool :=
  match s.pb.profileBase with
  | some b => inRegion a b 4096
  | none => false

/-- The first region that holds the address of the first byte (R6). -/
def State.classify (s : State) (a : Nat) : Region :=
  if inRegion a s.rpw.base (s.rpw.slots * 256) then .ring
  else if inRegion a s.pb.controlBase 4096 then .control
  else if s.inProfileWindow a then .profile (s.pb.profileBase.getD 0)
  else if s.inFrameWindow .ctx0 a then .frame .ctx0
  else if s.inFrameWindow .ctx1 a then .frame .ctx1
  else .outside

/-! ### The gain view (R18, R127) -/

/-- The record and the geometry a gain-view answer of context `c` uses; none where unity gain is answered. -/
def State.gainSource (s : State) (c : Ctx) : Option (Geometry × BandRecord) :=
  if (s.ctx c).mode = .transparent then none
  else s.mept.newestPlanned.map fun x => (deriveGeometry (s.ctx c) x.1.id x.2, x.2)

/-- The eight bytes at address `a` of an answer of context `c`: a pixel of the frame area, or 0 elsewhere (R18). -/
def State.answerPixel (s : State) (c : Ctx) (a : Nat) : Pixel :=
  match (s.ctx c).area with
  | none => 0
  | some f =>
    if f.holds a then
      match s.gainSource c with
      | none => unityGainPixel
      | some (g, r) => gainPixel g r ((a - f.base) % f.stride / 8) ((a - f.base) / f.stride)
    else 0

/-- Four pixels as one beat, the first at the lowest address (section 4.4). -/
def beatOfPixels (p : Nat → Pixel) : BeatData := p 3 ++ p 2 ++ p 1 ++ p 0

/-- The beats of an answer to a read of context `c` (R18). -/
def State.answerBeats (s : State) (c : Ctx) (r : UpRead) : List BeatData :=
  (List.range r.len).map fun i => beatOfPixels fun j => s.answerPixel c (r.first / 32 * 32 + 32 * i + 8 * j)

/-! ### Disposition (R14) -/

/-- Row `y` of the frame in progress has been retired (R144): written, and answered by the memory side. -/
def Frame.retired (f : Frame) (y : Nat) : Bool :=
  (decide (y < f.e) || (decide (f.rawFrom ≤ y) && decide (y < f.rawTo))) && !f.unretired.contains y

/-- The touched rows not yet retired by the context's frame in progress (R14 (3)); none where no frame is. -/
def Context.hazardRows (c : Context) (rows : List Nat) : List Nat :=
  match c.frame with
  | none => []
  | some f => rows.filter fun y => !f.retired y

/-- What a taken read is given (R14): its fate, and the context and unretired rows it waits on. -/
structure Disposition where
  fate : ReadFate
  rows : List Nat
  on   : Option Ctx
  deriving DecidableEq, Repr

/-- Forwarded without a hazard. -/
def Disposition.plain : Disposition := ⟨.forward, [], none⟩

/-- The disposition of a read that touches `rows` of context `c`'s frame area (R14). -/
def State.touchDisposition (s : State) (c : Ctx) (rows : List Nat) : Disposition :=
  if (s.ctx c).settings.view = .gainView then ⟨.answer c, [], none⟩
  else match (s.ctx c).hazardRows rows with
    | [] => Disposition.plain
    | hs => ⟨.forward, hs, some c⟩

/-- The disposition of a read (R14); in LOADING every read is forwarded (R19). -/
def State.disposition (s : State) (r : UpRead) : Disposition :=
  if !s.isReady then Disposition.plain
  else match s.classify r.first with
    | .frame c =>
      if (s.ctx c).state = .off then Disposition.plain
      else match (s.ctx c).area with
        | none => Disposition.plain
        | some f => match f.rowsTouched r.first r.last with
          | [] => Disposition.plain
          | rows => s.touchDisposition c rows
    | _ => Disposition.plain

/-! ### Taking and releasing reads (R2, R15 to R17) -/

/-- An answer of that tag has not returned its last beat (R15, R16). -/
def answering (rs : List ReadOut) (tag : Nat) : Bool :=
  rs.any fun x => decide (x.tag = tag) && (match x.body with | .answering _ => true | .forwarded _ => false)

/-- A read leaves for the memory side, or its answer is composed now (R16, R18). -/
def State.sendRead (s : State) (r : UpRead) : ReadFate → State
  | .forward => (s.setPb { s.pb with reads := s.pb.reads ++ [⟨r.tag, .forwarded r.len⟩] }).emit (.memRead r)
  | .answer c => s.setPb { s.pb with reads := s.pb.reads ++ [⟨r.tag, .answering (s.answerBeats c r)⟩] }

/-- The port bridge takes an upstream read (R2): the hold queue has fewer than 8 entries, no RESET ALL record is
pending and the part is not in reset. -/
def State.takesReads (s : State) : Bool :=
  decide (s.pb.holds.length < 8) && !s.stl.pendingReset && decide (s.stl.part ≠ .inReset)

/-- A taken read is forwarded, answered or held (R14, R15). -/
def State.takeRead (s : State) (r : UpRead) : State :=
  let d := s.disposition r
  if !d.rows.isEmpty || (s.pb.holds.any fun h => decide (h.read.tag = r.tag)) || answering s.pb.reads r.tag then
    s.setPb { s.pb with holds := s.pb.holds ++ [⟨r, d.fate, d.on, d.rows⟩] }
  else s.sendRead r d.fate

/-- One pass over the hold queue in its order: `kept` are the entries that stay, `todo` those still to be examined.
An entry leaves when its set is empty, no earlier entry of its tag stays and no answer of its tag is under way (R16). -/
def releaseHolds (s : State) (kept : List HoldEntry) : List HoldEntry → State
  | [] => s.setPb { s.pb with holds := kept }
  | h :: todo =>
    if h.rows.isEmpty && !(kept.any fun k => decide (k.read.tag = h.read.tag)) && !answering s.pb.reads h.read.tag then
      releaseHolds (s.sendRead h.read h.fate) kept todo
    else releaseHolds s (kept ++ [h]) todo

/-- Every releasable entry of the hold queue leaves, in the queue's order (R16). -/
def State.releaseReads (s : State) : State := releaseHolds s [] s.pb.holds

/-- The sets of the entries that wait on context `c` change (R16 (1), (2)). -/
def State.mapHoldRows (s : State) (c : Ctx) (f : List Nat → List Nat) : State :=
  s.setPb
    { s.pb with
      holds := s.pb.holds.map fun h => if h.waits = some c then { h with rows := f h.rows } else h }

/-- Row `y` of context `c` retires: it leaves every waiting set (R16 (1)). -/
def State.retireInHolds (s : State) (c : Ctx) (y : Nat) : State :=
  (s.mapHoldRows c fun rows => rows.filter fun r => decide (r ≠ y)).releaseReads

/-- Context `c` has returned to IDLE: every set that waits on it is emptied (R16 (2)). -/
def State.emptyHolds (s : State) (c : Ctx) : State := (s.mapHoldRows c fun _ => []).releaseReads

/-- A beat comes back for the oldest read out under `tag`, if it was forwarded (R2). The result pairs the list after
the beat with whether a read was found. -/
def returnForwarded (tag : Nat) : List ReadOut → List ReadOut × Bool
  | [] => ([], false)
  | x :: t =>
    if x.tag = tag then
      match x.body with
      | .forwarded n => (if n ≤ 1 then t else { x with body := .forwarded (n - 1) } :: t, true)
      | .answering _ => (x :: t, false)
    else
      let r := returnForwarded tag t
      (x :: r.1, r.2)

/-- A beat of the answer under `tag` is returned, if every earlier read of the tag has returned its last (R18). The
result pairs the list after the beat with the beat. -/
def returnAnswer (tag : Nat) : List ReadOut → List ReadOut × Option BeatData
  | [] => ([], none)
  | x :: t =>
    if x.tag = tag then
      match x.body with
      | .forwarded _ => (x :: t, none)
      | .answering [] => (t, none)
      | .answering [b] => (t, some b)
      | .answering (b :: rest) => ({ x with body := .answering rest } :: t, some b)
    else
      let r := returnAnswer tag t
      (x :: r.1, r.2)

/-! ### The upstream response queue (R8, R12) -/

/-- Complete entries at the head return their responses in take order and leave (R12). -/
def popResponses (s : State) : List RespEntry → State
  | [] => s.setPb { s.pb with responses := [] }
  | x :: t =>
    match x.resp with
    | some v => popResponses (s.emit (.writeResponse x.write.tag v)) t
    | none => s.setPb { s.pb with responses := x :: t }

/-- The queue's head entries leave while complete. -/
def State.popResponses (s : State) : State := Sys2Proof.Machine.popResponses s s.pb.responses

/-- The oldest pass entry not yet completed is completed with a response (R161). -/
def completePass (v : Resp) : List RespEntry → List RespEntry
  | [] => []
  | x :: t => if x.kind = .passed ∧ x.resp = none then { x with resp := some v } :: t else x :: completePass v t

/-- The oldest pass entry not yet issued is issued (R8). -/
def issuePass : List RespEntry → List RespEntry
  | [] => []
  | x :: t => if x.kind = .passed ∧ x.issued = false then { x with issued := true } :: t else x :: issuePass t

/-- The oldest pass write not yet issued. -/
def State.nextPass (s : State) : Option UpWrite :=
  (s.pb.responses.find? fun x => decide (x.kind = .passed) && !x.issued).map (·.write)

end Sys2Proof.Machine
end

