-- ==== Sys2Proof/Machine/Emission.lean ====
section
/-! DEFINITION. What a context does with a band record and its held rows: deriving its geometry (R115), releasing
source rows (R143), requesting an emission (R142), and forming the pixels of a burst (R154). -/

namespace Sys2Proof.Machine

/-- Context `c`'s frame changed by `f`, where it has one. -/
def Context.mapFrame (c : Context) (f : Frame → Frame) : Context := { c with frame := c.frame.map f }

/-- Context `c` with its frame changed by `f`. -/
def State.mapFrame (s : State) (c : Ctx) (f : Frame → Frame) : State := s.setCtx c ((s.ctx c).mapFrame f)

/-- The held rows below `bound` are released (R143, R147); they are never held again. -/
def Frame.releaseBelow (f : Frame) (bound : Nat) : Frame :=
  let n := min (bound - f.low) f.held.length
  { f with low := f.low + n, held := f.held.drop n }

/-- Source row `r` has been received whole (R139). -/
def Frame.complete (f : Frame) (r : Nat) : Bool := decide (r < f.nextRow)

/-- The geometry context `c` holds is for that band (R115). -/
def Context.holdsGeometry (c : Context) (id b : Nat) : Bool :=
  match c.geo with
  | some g => decide (g.entry = id) && decide (g.band = b)
  | none => false

/-- The account after a band is obtained for the first time in the frame (R151). -/
def Account.obtain (a : Account) (r : BandRecord) (clamped : Bool) : Account :=
  { a with
    deferred := a.deferred + (if r.deferred then 1 else 0)
    waitedOut := a.waitedOut + (if r.waitedOut then 1 else 0)
    clamped := a.clamped + (if clamped then 1 else 0) }

/-- The frame with the band record of its next output row obtained, its account raised when the band is new to the
frame, and the rows below min(e, yi) released (R141, R143, R151). -/
def Frame.obtain (f : Frame) (r : BandRecord) (g : Geometry) (fresh : Bool) : Frame :=
  let f' := { f with record := some r, account := if fresh then f.account.obtain r g.clamped else f.account }
  f'.releaseBelow (min (f.e : Int) (g.yi f.e)).toNat

/-- A row of the frame area is requested as one EMIT run (R142, R147): `pixels` pixels of row `y`. -/
def State.requestRow (s : State) (c : Ctx) (y pixels : Nat) (raw : Bool) : State :=
  match (s.ctx c).area with
  | none => s
  | some a => s.request (requesterFor c) ⟨.row c y raw, rowBursts (a.at y 0) pixels, false⟩

/-- Output row e of context `c` can be emitted (R142): a frame in RUNNING or FINISHING, its band record obtained, no
emission in progress, and every needed row complete. -/
def Context.emitReady (c : Context) (busy : Bool) : Bool :=
  match c.frame, c.geo with
  | some f, some g =>
    (decide (c.state = .running) || decide (c.state = .finishing)) && f.record.isSome && !busy &&
      decide (f.e < c.height) && (g.needed c.height f.e).all f.complete
  | _, _ => false

/-- Output row e is requested when it can be emitted (R142). -/
def State.tryEmit (s : State) (c : Ctx) : State :=
  if (s.ctx c).emitReady (s.warb.runs.get (requesterFor c)).isSome then
    match (s.ctx c).frame with
    | some f => s.requestRow c f.e (s.ctx c).settings.width false
    | none => s
  else s

/-- Context `c` obtains the band record of band `b` of entry `id` for its next output row (R141): its geometry is
derived unless it holds one for the band (R115, R118), rows are released (R143), and the row is emitted if it can be. -/
def State.obtainBand (s : State) (c : Ctx) (id : Nat) (r : BandRecord) : State :=
  match (s.ctx c).frame with
  | none => s
  | some f =>
    let fresh := !(s.ctx c).holdsGeometry id r.band
    let g := if fresh then deriveGeometry (s.ctx c) id r else ((s.ctx c).geo.getD (deriveGeometry (s.ctx c) id r))
    ((s.setCtx c { s.ctx c with geo := some g, frame := some (f.obtain r g fresh) }).latchIf (fresh && g.clamped)
      .depthLimit).tryEmit c

/-! ### The pixels of a burst (R154) -/

/-- The pixel of source row `row`, column `col`, where the row is held and the pixel has been received. -/
def Frame.pixel (f : Frame) (row col : Nat) : Option Pixel :=
  if row < f.low then none else ((f.held[row - f.low]?).bind fun p => p[col]?)

/-- What stage E reads: a held pixel, or the free value of log 10 for a row no longer held. -/
def State.fetchPixel (s : State) (c : Ctx) (f : Frame) (left : Nat) (row col : Nat) : Pixel :=
  (f.pixel row col).getD (Config.unheldPixel ⟨c, s.time, f.entry, f.e, left, row, col⟩)

/-- Pixel `x` of row `y` as its run writes it: raw, or corrected by the engine (R142, R147). `left` counts the bursts
the run still has. -/
def State.outPixel (s : State) (c : Ctx) (y : Nat) (raw : Bool) (left x : Nat) : Pixel :=
  match (s.ctx c).frame with
  | none => 0
  | some f =>
    if raw then s.fetchPixel c f left y x
    else match (s.ctx c).geo, f.record with
      | some g, some r => correctPixel (s.ctx c).settings (s.ctx c).height g r (s.fetchPixel c f left) x y
      | _, _ => 0

/-- The full-strobe beats of a burst of a row (R142, R154). -/
def State.rowBeats (s : State) (c : Ctx) (y : Nat) (raw : Bool) (left : Nat) (b : BurstPlan) : List Beat :=
  match (s.ctx c).area with
  | none => []
  | some a =>
    (List.range b.beats).map fun i =>
      ⟨beatOfPixels fun j => s.outPixel c y raw left ((b.addr - a.at y 0) / 8 + 4 * i + j), BitVec.allOnes 32⟩

end Sys2Proof.Machine
end

