-- ==== Sys2Proof/Machine/Track.lean ====
section
/-! DEFINITION. The position track (R40 to R43) and the focus estimator (R44 to R52). -/

namespace Sys2Proof.Machine

/-- The newest held sample. -/
def Track.newest (t : Track) : Option Sample := t.samples.getLast?

/-- Insertion (R41): the oldest sample leaves a full track, the new one becomes the newest. -/
def Track.insert (t : Track) (x : Sample) : Track :=
  { samples := t.samples.drop (t.samples.length - 15) ++ [x], lastIris := some x.iris }

/-- Clearing (R42): the last iris is kept. -/
def Track.clear (t : Track) : Track := { t with samples := [] }

/-- An answer of the estimator: a focus and how it was obtained (section 3.2). -/
structure Estimate where
  focus : Nat
  kind  : BandKind
  deriving DecidableEq, Repr

/-- The clamp of R49. -/
def clampFocus (v : Int) : Nat := (clampInt 0 65535 v).toNat

/-- Interpolation between two neighbouring samples (R47). -/
def interpolateBetween (a b : Sample) (T : Time) : Int :=
  let d := signedDiff b.t a.t
  (a.focus : Int) + (((b.focus : Int) - a.focus) * signedDiff T a.t + d / 2) / d

/-- The interpolation of R47 over the pair around T, none when T is later than the newest sample. -/
def interpolate : List Sample → Time → Option Int
  | [], _ => none
  | [_], _ => none
  | a :: b :: rest, T =>
    if later T a.t && !later T b.t then some (interpolateBetween a b T) else interpolate (b :: rest) T

/-- Extrapolation beyond the newest sample (R48), none for an empty track. -/
def extrapolate : List Sample → Time → Nat → Option (Int × BandKind)
  | [], _, _ => none
  | [a], _, _ => some (a.focus, .latest)
  | [a, b], T, hx =>
    let d := signedDiff b.t a.t
    let e := min (signedDiff T b.t) (hx : Int)
    some ((b.focus : Int) + (((b.focus : Int) - a.focus) * e + d / 2) / d, .predicted)
  | _ :: b :: c :: rest, T, hx => extrapolate (b :: c :: rest) T hx

/-- The answer to a question put to an empty track in TRACK, which R44 rules out (log 11). -/
def emptyTrackEstimate (T : Time) : Estimate := ⟨(Config.emptyTrackFocus T).toNat, .latest⟩

/-- PREDICT mode (R46 to R49). -/
def predict (samples : List Sample) (T : Time) (hx : Nat) : Estimate :=
  match samples with
  | [] => emptyTrackEstimate T
  | first :: rest =>
    if !later T first.t then ⟨first.focus, .beforeTrack⟩
    else match interpolate (first :: rest) T with
      | some v => ⟨clampFocus v, .interpolated⟩
      | none => match extrapolate (first :: rest) T hx with
        | some (v, k) => ⟨clampFocus v, k⟩
        | none => emptyTrackEstimate T

/-- LATEST mode (R45). -/
def latestEstimate (t : Track) (T : Time) : Estimate :=
  match t.newest with
  | some x => ⟨x.focus, .latest⟩
  | none => emptyTrackEstimate T

/-- T is later than the newest held sample. -/
def Track.beyond (t : Track) (T : Time) : Bool :=
  match t.newest with
  | some x => later T x.t
  | none => false

/-- "Focus at T" (R44): the answer in the mode in force, none when AWAIT defers it (R50). -/
def Estimator.ask (f : Estimator) (t : Track) (T : Time) : Option Estimate :=
  match f.mode with
  | .latest => some (latestEstimate t T)
  | .predict => some (predict t.samples T f.horizon)
  | .await => if t.beyond T then none else some (predict t.samples T f.horizon)

/-- The answer of a deferral that waits out: the PREDICT extrapolation, of kind PREDICTED in every case (R52). -/
def waitedOutEstimate (f : Estimator) (t : Track) (T : Time) : Estimate :=
  ⟨(predict t.samples T f.horizon).focus, .predicted⟩

/-- A sample is inserted into the track, and the timing window timer restarts (R33, R41). -/
def State.insertSample (s : State) (x : Sample) : State :=
  (s.setPtrk (s.ptrk.insert x)).setPmon { s.pmon with timer := some s.time }

/-- The track is cleared (R42). -/
def State.clearTrack (s : State) : State := s.setPtrk s.ptrk.clear

end Sys2Proof.Machine
end

