-- ==== Sys2Proof/Machine/Planning.lean ====
section
/-! DEFINITION. The band planner (R94 to R112): the motion state, planning one band, runs of planning, requests, and
the end of deferrals. -/

namespace Sys2Proof.Machine

/-! ### Motion (R101 to R103) -/

/-- A value slewed toward a goal by at most `step` (R103). -/
def slewTo (cur goal step : Nat) : Nat :=
  if absDiff goal cur ≤ step then goal else if cur < goal then cur + step else cur - step

/-- The target after an estimate (R101). -/
def hysteresisTarget (target est hy : Nat) : Nat := if hy < absDiff est target then est else target

/-- The target a completed band sets: from the estimate in TRACK (R101), by loss action outside it (R102). -/
def MotionSettings.target (m : MotionSettings) (target rest : Nat) : Option Estimate → Nat
  | some e => hysteresisTarget target e.focus m.hysteresis
  | none => match m.loss with
    | .hold => target
    | .rest => rest
    | .neutral => target

/-- The strength goal of a completed band (R101, R102). -/
def MotionSettings.goal (m : MotionSettings) : Option Estimate → Nat
  | some _ => m.strengthGoal
  | none => match m.loss with
    | .hold => m.strengthGoal
    | .rest => m.strengthGoal
    | .neutral => 0

/-- The kind of a band completed outside TRACK (R102). -/
def LossAction.kind : LossAction → BandKind
  | .hold => .lossHold
  | .rest => .lossRest
  | .neutral => .lossNeutral

/-- The motion state after a band completed against an active profile with rest position `rest` (R101 to R103). A
target or f_eff is set while a profile is active (R100); should one be unset it starts at the rest position. -/
def Motion.step (m : Motion) (st : MotionSettings) (rest : Nat) (est : Option Estimate) : Motion :=
  let target := st.target (m.target.getD rest) rest est
  { target := some target
    feff := some (slewTo (m.feff.getD rest) target st.slew)
    strength := slewTo m.strength (st.goal est) st.strengthStep }

/-! ### Planning one band (R96, R104, R109, R110) -/

/-- The iris used for a band planned now (R55). -/
def State.irisUsed (s : State) : Nat :=
  match s.ptrk.lastIris with
  | some i => i
  | none => if s.psto.hasActive then s.psto.activeTable.iris 0 else 0

/-- What planning one band leaves: the record and the motion state. -/
structure Planned where
  record : BandRecord
  motion : Motion
  deriving DecidableEq, Repr

/-- A band completed while the active profile is NONE (R104). -/
def State.planNoProfile (s : State) (b : Nat) (tb : Time) (est : Option Estimate) (deferred waitedOut : Bool) :
    Planned :=
  { record :=
      { band := b, time := tb, kind := .noProfile, deferred := deferred, waitedOut := waitedOut,
        estimate := est.map (·.focus), target := s.bpln.motion.target, feff := s.bpln.motion.feff, iris := s.irisUsed,
        strength := s.bpln.motion.strength, k := 65536, dx := 0, dy := 0, red := ⟨0, 0, 0⟩, green := ⟨0, 0, 0⟩,
        blue := ⟨0, 0, 0⟩, profileId := none, consts := none }
    motion := s.bpln.motion }

/-- A band completed against the active profile (R101 to R103, R105 to R110). -/
def State.planWithProfile (s : State) (b : Nat) (tb : Time) (est : Option Estimate) (deferred waitedOut : Bool) :
    Planned :=
  let t := s.psto.activeTable
  let m := s.bpln.motion.step s.bpln.settings t.rest est
  let a := stageA t (m.feff.getD t.rest) s.irisUsed
  { record :=
      { band := b, time := tb, kind := (est.map (·.kind)).getD s.bpln.settings.loss.kind, deferred := deferred,
        waitedOut := waitedOut, estimate := est.map (·.focus), target := m.target, feff := m.feff, iris := s.irisUsed,
        strength := m.strength, k := scaledRatio a.kRaw m.strength, dx := a.dx, dy := a.dy,
        red := a.red.scale m.strength, green := a.green.scale m.strength, blue := a.blue.scale m.strength,
        profileId := some t.profileId, consts := some t.consts }
    motion := m }

/-- The completion of a band (R96 (4) to (7)): its record and the motion state it leaves. -/
def State.planBand (s : State) (b : Nat) (tb : Time) (est : Option Estimate) (deferred waitedOut : Bool) : Planned :=
  if s.psto.hasActive then s.planWithProfile b tb est deferred waitedOut
  else s.planNoProfile b tb est deferred waitedOut

/-- The cursor after band `b` of entry `e` is planned (R94 (2)). -/
def cursorAfter (es : List EpochEntry) (e : EpochEntry) (b : Nat) : Option (Nat × Nat) :=
  if b + 1 < e.slots.length then some (e.id, b + 1) else (nextEntry es e.id).map fun i => (i, 0)

/-- An outstanding request for the planned band is answered, and ends (R95, R96 (7)). -/
def State.answer (s : State) (c : Ctx) (id : Nat) (r : BandRecord) : State :=
  if s.bpln.requests.get c = some (id, r.band) then
    (s.setBpln { s.bpln with requests := s.bpln.requests.set c none }).obtainBand c id r
  else s

/-- A band of entry `e` is completed: the record is written into its slot, the cursor advances, and the requests
that name the band are answered (R96 (7), R109). A deferral that waited for it has ended. -/
def State.finishBand (s : State) (e : EpochEntry) (b : Nat) (tb : Time) (est : Option Estimate)
    (deferred waitedOut : Bool) : State :=
  let p := s.planBand b tb est deferred waitedOut
  ((((s.setMept (s.mept.update e.id fun e => { e with slots := e.slots.set b (some p.record) })).setBpln
    { s.bpln with
      cursor := cursorAfter s.mept.entries e b
      begun := false
      deferral := none
      motion := p.motion }).latchIf waitedOut .planWaitedOut).answer .ctx0 e.id p.record).answer .ctx1 e.id p.record

/-- The beginning of band 0 of an entry while staging is PENDING swaps the tables, at the first beginning only
(R96 (1), R98 (2)). -/
def State.beginBand (s : State) (b : Nat) : State :=
  let s' := if b = 0 ∧ s.bpln.begun = false ∧ s.psto.pendingSwap then s.swapProfiles else s
  s'.setBpln { s'.bpln with begun := true }

/-- The frame with its stall timer, where it runs, restarted from 0 (R149). -/
def Frame.restart (f : Frame) (now : Time) : Frame := { f with stall := f.stall.map fun _ => now }

/-- Context `c` waited for a deferral that ended at the moment it began, if it has an outstanding request: its stall timer
resumes at that moment and restarts from 0 (R97, R149). -/
def State.resumeWaiter (s : State) (c : Ctx) : State :=
  if (s.bpln.requests.get c).isSome then s.mapFrame c fun f => f.restart s.time else s

/-- Both contexts resume after a deferral that ended at the moment it began. -/
def State.resumeWaiters (s : State) : State := (s.resumeWaiter .ctx0).resumeWaiter .ctx1

/-- The planner puts the question for a begun band, and completes the band or defers it (R96 (2), (3), R50). With a
wait limit of 0 a deferral waits out at the moment it begins (R52), and the contexts that waited for it resume (R149). -/
def State.askBand (s : State) (e : EpochEntry) (b : Nat) : State :=
  let tb := e.bandTime b
  if s.pmon.pos = .track then
    match s.fest.ask s.ptrk tb with
    | some est => s.finishBand e b tb (some est) false false
    | none =>
      if s.fest.waitLimit = 0 then
        s.resumeWaiters.finishBand e b tb (some (waitedOutEstimate s.fest s.ptrk tb)) true true
      else s.setBpln { s.bpln with deferral := some ⟨e.id, b, tb, s.time⟩ }
  else s.finishBand e b tb none false false

/-- The band at the cursor is begun (R96). -/
def State.planOne (s : State) (e : EpochEntry) (b : Nat) : State := (s.beginBand b).askBand e b

/-- A context has an outstanding request. -/
def Planner.requested (p : Planner) : Bool := p.requests.ctx0.isSome || p.requests.ctx1.isSome

/-- Bands are planned from the cursor onward until no request is outstanding or a deferral waits (R95, R97). The
number bounds the bands planned. -/
def planRun : Nat → State → State
  | 0, s => s
  | n + 1, s =>
    if s.bpln.requested && s.bpln.deferral.isNone then
      match s.bpln.cursor with
      | none => s
      | some (id, b) => match s.mept.find id with
        | none => s
        | some e => planRun n (s.planOne e b)
    else s

/-- The number of bands of the held entries, which bounds a run of planning. -/
def EpochTable.bands (m : EpochTable) : Nat := (m.entries.map fun e => e.slots.length).sum

/-- Planning goes on from the cursor for the outstanding requests (R95, R97, R99). -/
def State.plan (s : State) : State := planRun s.mept.bands s

/-- Context `c` requests band `b` of its bound entry (R95): a planned band is answered at once, another becomes its
outstanding request. -/
def State.requestBand (s : State) (c : Ctx) (id b : Nat) : State :=
  match s.mept.recordAt id b with
  | some r => s.obtainBand c id r
  | none => (s.setBpln { s.bpln with requests := s.bpln.requests.set c (some (id, b)) }).plan

/-- Context `c` requests the band of its next output row (R141). -/
def State.requestNext (s : State) (c : Ctx) : State :=
  match (s.ctx c).frame with
  | none => s
  | some f => s.requestBand c f.entry (bandOfRow (s.ctx c).settings f.nb f.br f.e)

/-! ### The end of a deferral (section 3.3, R97, R98) -/

/-- The waiting deferral ends with an answer or without one, its band is completed with the flag DEFERRED, and
planning resumes (R97, R110). -/
def State.endDeferral (s : State) (est : Option Estimate) (waitedOut : Bool) : State :=
  match s.bpln.deferral with
  | none => s
  | some d => match s.mept.find d.entry with
    | none => s
    | some e => (s.finishBand e d.band d.time est true waitedOut).plan

/-- The waiting deferral waits out (R52). -/
def State.waitOut (s : State) : State :=
  match s.bpln.deferral with
  | none => s
  | some d => s.endDeferral (some (waitedOutEstimate s.fest s.ptrk d.time)) true

/-- The wait limit of the waiting deferral has passed since its start (R52, R54). -/
def State.waitDue (s : State) : Bool :=
  match s.bpln.deferral with
  | none => false
  | some d => decide (s.fest.waitLimit ≤ elapsed d.start s.time)

/-- An insertion is offered to the waiting deferral (R51): it ends when the newest sample is not earlier than T. -/
def State.offerInsertion (s : State) : State :=
  match s.bpln.deferral with
  | none => s
  | some d =>
    if s.ptrk.beyond d.time || s.ptrk.samples.isEmpty then s
    else s.endDeferral (some (predict s.ptrk.samples d.time s.fest.horizon)) false

/-- The position state leaves TRACK while a deferral waits: it is abandoned and its band is planned by loss action
(R53). -/
def State.abandonDeferral (s : State) : State := s.endDeferral none false

/-- Context `c`'s outstanding request lapses; a deferral that no other request needs is withdrawn (R98). -/
def State.lapse (s : State) (c : Ctx) : State :=
  let requests := s.bpln.requests.set c none
  s.setBpln
    { s.bpln with
      requests := requests
      deferral := if requests.ctx0.isSome || requests.ctx1.isSome then s.bpln.deferral else none }

/-- Context `c` is waiting for a deferred band (R97). -/
def State.waitsForDeferred (s : State) (c : Ctx) : Bool :=
  s.bpln.deferral.isSome && (s.bpln.requests.get c).isSome

end Sys2Proof.Machine
end

