-- ==== Sys2Proof/Machine/Reporting.lean ====
section
/-! DEFINITION. The report writer (R175 to R180): composing, queueing and presenting reports, and their bytes
(Tables 10.4 and 10.5). -/

namespace Sys2Proof.Machine

/-! ### Bytes of a report -/

/-- A number as `n` little-endian bytes, lowest address first (section 4.5). -/
def le : Nat → Nat → List Byte
  | 0, _ => []
  | n + 1, v => BitVec.ofNat 8 v :: le n (v / 256)

/-- A signed 16-bit field. -/
def le16s (v : Int) : List Byte := le 2 (BitVec.ofInt 16 v).toNat

/-- Outcome codes (Table 10.4). -/
def FrameOutcome.code : FrameOutcome → Nat
  | .complete => 0
  | .abortSequence => 1
  | .abortStall => 2
  | .abortReset => 3
  | .status => 4

/-- Mode codes (Table 10.4). -/
def Mode.code : Mode → Nat
  | .transparent => 0
  | .shadeOnly => 1
  | .geometryOnly => 2
  | .correct => 3

/-- Position state codes (Table 10.4). -/
def PosState.code : PosState → Nat
  | .lost => 0
  | .acquire => 1
  | .track => 2

/-- Reject reason codes (Table 10.4). -/
def RejectReason.code : RejectReason → Nat
  | .none => 0
  | .malformed => 1
  | .check => 2
  | .kind => 3
  | .target => 4

/-- Commit reject reason codes (Table 10.4). -/
def CommitReason.code : CommitReason → Nat
  | .pending => 1
  | .tag => 2
  | .length => 3
  | .coverage => 4
  | .check => 5
  | .counts => 6
  | .order => 7
  | .radius => 8

/-- Last commit outcome and its reason (Table 10.4, offsets 10 and 11). -/
def CommitOutcome.codes : CommitOutcome → Nat × Nat
  | .none => (0, 0)
  | .accepted false => (1, 0)
  | .accepted true => (2, 0)
  | .rejected r => (3, r.code)

/-- Band kind codes (Table 10.5). -/
def BandKind.code : BandKind → Nat
  | .interpolated => 0
  | .predicted => 1
  | .latest => 2
  | .beforeTrack => 3
  | .lossHold => 4
  | .lossRest => 5
  | .lossNeutral => 6
  | .noProfile => 7

/-- Context codes (Table 10.4): 255 for STATUS. -/
def contextCode : Option Ctx → Nat
  | some .ctx0 => 0
  | some .ctx1 => 1
  | none => 255

/-- The marked byte (Table 10.4): 255 for none. -/
def markedCode : Option Bool → Nat
  | some false => 0
  | some true => 1
  | none => 255

/-- The three coefficients of a channel as bytes. -/
def Coeffs.bytes (c : Coeffs) : List Byte := le16s c.a1 ++ le16s c.a2 ++ le16s c.a3

/-- The flags byte of a probe (Table 10.5, offset 3). -/
def BandRecord.flagByte (r : BandRecord) : Nat :=
  (if r.deferred then 1 else 0) + (if r.waitedOut then 2 else 0) + (if r.estimate.isSome then 4 else 0) +
    (if r.target.isSome then 8 else 0) + (if r.profileId.isSome then 16 else 0)

/-- A probe place of 48 bytes (Table 10.5, R179). -/
def probeBytes : Nat × Option BandRecord → List Byte
  | (b, none) => le 1 0 ++ le 1 b ++ List.replicate 46 0
  | (b, some r) =>
    le 1 1 ++ le 1 b ++ le 1 r.kind.code ++ le 1 r.flagByte ++ le 4 r.time.toNat ++ le 2 (r.estimate.getD 0) ++
      le 2 (r.target.getD 0) ++ le 2 (r.feff.getD 0) ++ le 2 r.iris ++ le 2 r.strength ++ le 2 (r.profileId.getD 0) ++
      le 4 r.k.toNat ++ le16s r.dx ++ le16s r.dy ++ r.red.bytes ++ r.green.bytes ++ r.blue.bytes ++ le 2 0

/-- The 64-byte header (Table 10.4). -/
def Report.header (r : Report) : List Byte :=
  le 4 r.seq.toNat ++ le 1 r.outcome.code ++ le 1 (contextCode r.context) ++
    le 1 ((r.mode.map Mode.code).getD 255) ++ le 1 r.pos.code ++ le 1 (markedCode r.marked) ++
    le 1 (if r.pendingSwap then 1 else 0) ++ le 1 r.commit.codes.1 ++ le 1 r.commit.codes.2 ++
    le 4 r.markTime.toNat ++ le 2 r.account.rowsCorrected ++ le 2 (r.account.firstUncorrected.getD 65535) ++
    le 1 r.account.deferred ++ le 1 r.account.waitedOut ++ le 1 r.account.clamped ++ le 1 r.probes.length ++
    le 4 r.events.toNat ++ le 2 r.good.toNat ++ le 2 r.bad.toNat ++ le 2 r.early.toNat ++ le 2 r.implausible.toNat ++
    le 2 r.stale.toNat ++ le 2 r.missed.toNat ++ le 2 r.taken.toNat ++ le 2 r.rejected.toNat ++ le 2 r.stray.toNat ++
    le 2 r.memErrors.toNat ++ le 2 r.dropped.toNat ++ le 1 r.reason.code ++
    le 1 (if r.profileId.isSome then 1 else 0) ++ le 2 (r.profileId.getD 0) ++ le 4 r.time.toNat ++ List.replicate 6 0

/-- The 256 bytes of a report: the header and the four probe places, unused places 0 (R179). -/
def Report.bytes (r : Report) : List Byte :=
  r.header ++ r.probes.flatMap probeBytes ++ List.replicate (48 * (4 - r.probes.length)) 0

/-- 32 bytes as one beat, the lowest address least significant. -/
def beatOfBytes : List Byte → Nat
  | [] => 0
  | b :: t => b.toNat + 256 * beatOfBytes t

/-- Beat `i` of a report (R154). -/
def Report.beat (r : Report) (i : Nat) : Beat :=
  ⟨BitVec.ofNat 256 (beatOfBytes ((r.bytes.drop (32 * i)).take 32)), BitVec.allOnes 32⟩

/-! ### Composition (R178, R179) -/

/-- The bands of the probe span paired with the records of the probe entry (R179). -/
def State.probesOf (s : State) (entry : Option EpochEntry) : List (Nat × Option BandRecord) :=
  (List.range' s.rpw.probeFirst (s.rpw.probeLast + 1 - s.rpw.probeFirst)).map fun b =>
    (b, match entry with
      | none => none
      | some e => (e.slots[b]?).join)

/-- The parts of a report that do not depend on its occasion, with an account, an outcome, a context, a mode, a
stray-write count and a probe entry (R178). -/
def State.compose (s : State) (o : FrameOutcome) (c : Option Ctx) (mode : Option Mode) (a : Account)
    (stray : BitVec 16) (entry : Option EpochEntry) : Report :=
  { seq := s.rpw.nextSeq, outcome := o, context := c, mode := mode, pos := s.pmon.pos,
    marked := entry.map (·.marked), pendingSwap := s.psto.pendingSwap, commit := s.psto.outcome,
    markTime := (entry.map (·.markTime)).getD 0, account := a, events := s.evu.set, good := s.llr.good,
    bad := s.llr.bad, early := s.pmon.early, implausible := s.pmon.implausible, stale := s.pmon.stale,
    missed := s.llr.missed, taken := s.crec.taken, rejected := s.crec.rejected, stray := stray,
    memErrors := s.warb.errors, dropped := s.rpw.dropped, reason := s.crec.reason, profileId := s.activeId,
    time := s.time, probes := s.probesOf entry }

/-- The account of a STATUS report and of a pass frame's start (R136, R151, R178). -/
def Account.zero : Account := ⟨0, none, 0, 0, 0⟩

/-- The STATUS report (R178). -/
def State.statusReport (s : State) : Report :=
  s.compose .status none none Account.zero (s.ctxs.ctx0.stray + s.ctxs.ctx1.stray) (s.mept.newestPlanned.map (·.1))

/-- The frame report of context `c`, whose frame was bound to entry `id` (R178). -/
def State.frameReport (s : State) (c : Ctx) (id : Nat) (o : FrameOutcome) (a : Account) : Report :=
  s.compose o (some c) (some (s.ctx c).mode) a (s.ctx c).stray (s.mept.find id)

/-! ### The queue (R175 to R177) -/

/-- A record of the queue is presented and unissued. -/
def QueuedReport.isPresented (q : QueuedReport) : Bool :=
  match q.stage with
  | .presented _ => true
  | _ => false

/-- A record of the queue is waiting. -/
def QueuedReport.isWaiting (q : QueuedReport) : Bool :=
  match q.stage with
  | .waiting => true
  | _ => false

/-- The oldest waiting record is presented at a slot address. -/
def presentFirst (addr : Nat) : List QueuedReport → List QueuedReport
  | [] => []
  | q :: t => if q.isWaiting then { q with stage := .presented addr } :: t else q :: presentFirst addr t

/-- The presented record is written, when its run has issued its last burst (R177). -/
def writeFirst : List QueuedReport → List QueuedReport
  | [] => []
  | q :: t =>
    match q.stage with
    | .presented a => { q with stage := .written a } :: t
    | _ => q :: writeFirst t

/-- The oldest written record leaves the queue, when its eighth response has arrived (R177). -/
def completeFirst : List QueuedReport → List QueuedReport
  | [] => []
  | q :: t =>
    match q.stage with
    | .written _ => t
    | _ => q :: completeFirst t

/-- The report that is presented and unissued. -/
def ReportWriter.current (r : ReportWriter) : Option Report := (r.queue.find? (·.isPresented)).map (·.report)

/-- The slot address a presentation assigns (R177), base + slot × 256 without a wrap at 2^40: the spec does not say what a
slot address beyond 40 bits becomes (DESIGN CHOICE, log 24). -/
def ReportWriter.slotAddr (r : ReportWriter) : Nat := r.base + r.nextSlot * 256

/-- A presentation is due: the part is READY, a record waits, and none is presented and unissued (R177). -/
def State.presentDue (s : State) : Bool :=
  s.isReady && s.rpw.queue.any (·.isWaiting) && !s.rpw.queue.any (·.isPresented)

/-- The oldest waiting record is given its slot and presented to the arbiter as REPORT, when due (R177). -/
def State.presentReport (s : State) : State :=
  if s.presentDue then
    (s.setRpw
      { s.rpw with
        queue := presentFirst s.rpw.slotAddr s.rpw.queue
        nextSlot := if s.rpw.nextSlot + 1 < s.rpw.slots then s.rpw.nextSlot + 1 else 0 }).request .report
      ⟨.record, reportBursts s.rpw.slotAddr, false⟩
  else s

/-- A generated report enters the queue or is dropped (R176). Its record is `r`. -/
def State.queueReport (s : State) (r : Report) : State :=
  if s.rpw.queue.length < 2 then
    (s.setRpw { s.rpw with queue := s.rpw.queue ++ [⟨r, .waiting⟩], nextSeq := s.rpw.nextSeq + 1 }).presentReport
  else
    (s.setRpw { s.rpw with dropped := s.rpw.dropped + 1, nextSeq := s.rpw.nextSeq + 1 }).latch .reportDropped

/-- A report is generated from the state of the moment; nothing happens while the slot count is 0 (R176). -/
def State.generate (s : State) (r : Report) : State := if s.rpw.slots = 0 then s else s.queueReport r

/-- REPORT_RING taken (R175). -/
def ReportWriter.ring (r : ReportWriter) (p : Params) : ReportWriter :=
  { r with
    base := p.ringBase
    slots := p.ringSlots
    nextSlot := 0
    probeFirst := p.probeFirst
    probeLast := p.probeLast
    queue := if p.ringSlots = 0 then r.queue.filter fun q => !q.isWaiting else r.queue
    dropped := if p.ringSlots = 0 then r.dropped + BitVec.ofNat 16 (r.queue.filter (·.isWaiting)).length
      else r.dropped }

/-- REPORT_RING taken: with a slot count of 0 each waiting record is a dropped report (R175). -/
def State.setRing (s : State) (p : Params) : State :=
  (s.setRpw (s.rpw.ring p)).latchIf (decide (p.ringSlots = 0) && s.rpw.queue.any (·.isWaiting)) .reportDropped

end Sys2Proof.Machine
end

