-- ==== Sys2Proof/Machine/Frames.lean ====
section
/-! DEFINITION. Context settings (R129 to R133), and frames from start to completion or abort (R135 to R151). -/

namespace Sys2Proof.Machine

/-! ### Settings taking effect (R129 to R133) -/

/-- The share of a context under a split (R129). -/
def shareOf (share0 : Nat) : Ctx → Nat
  | .ctx0 => share0
  | .ctx1 => 262144 - share0

/-- Depth D (R130). -/
def depthOf (share width : Nat) : Nat := min 128 (share / width)

/-- The mode in effect (R133). -/
def effectiveMode (mode : Mode) (depth : Nat) : Mode :=
  match mode with
  | .transparent => .transparent
  | .shadeOnly => if depth < 2 then .transparent else .shadeOnly
  | .geometryOnly => if depth < 2 then .transparent else if depth < 4 then .shadeOnly else .geometryOnly
  | .correct => if depth < 2 then .transparent else if depth < 4 then .shadeOnly else .correct

/-- The context with its depth and its mode in effect decided anew for a share (R130, R133). -/
def Context.redepth (c : Context) (share : Nat) : Context :=
  { c with
    depth := depthOf share c.settings.width
    mode := effectiveMode c.settings.mode (depthOf share c.settings.width) }

/-- The mode in effect is a fallback (R133). -/
def Context.fellBack (c : Context) : Bool := decide (c.mode ≠ c.settings.mode)

/-- The context with settings in force: window, height clamp, depth and mode in effect (R132 (1) to (3)). -/
def Context.adopt (c : Context) (st : Settings) (share : Nat) : Context :=
  let x := st.window.map fun w => extentOf w.1 w.2
  ({ c with settings := st, extent := x, height := heightIn st x } : Context).redepth share

/-- The state that the configured mode calls for (R132 (4)). -/
def followMode (mode : Mode) (state : CtxState) : CtxState :=
  if mode = .transparent ∧ state = .idle then .off
  else if mode ≠ .transparent ∧ state = .off then .idle
  else state

/-- Settings take effect for context `c` (R132). -/
def State.applySettings (s : State) (c : Ctx) (st : Settings) : State :=
  let old := s.ctx c
  let new := old.adopt st (shareOf s.lmem.share0 c)
  let s1 := (s.setCtx c { new with state := followMode st.mode old.state }).latchIf new.fellBack .depthLimit
  if followMode st.mode old.state = old.state then s1
  else if followMode st.mode old.state = .off then s1.examineEntries.plan
  else ((s1.consumeAll c).examineEntries).plan

/-- A context is OFF or IDLE. -/
def CtxState.resting (x : CtxState) : Bool := decide (x = .off) || decide (x = .idle)

/-- Both contexts are IDLE or OFF (R129). -/
def State.bothResting (s : State) : Bool := s.ctxs.ctx0.state.resting && s.ctxs.ctx1.state.resting

/-- Context `c` has its depth and fallback decided anew under the split in force (R129). -/
def State.redepth (s : State) (c : Ctx) : State :=
  let new := (s.ctx c).redepth (shareOf s.lmem.share0 c)
  (s.setCtx c new).latchIf new.fellBack .depthLimit

/-- A split takes effect (R129). -/
def State.applySplit (s : State) (share0 : Nat) : State :=
  ((s.setLmem { s.lmem with share0 := share0 }).redepth .ctx0).redepth .ctx1

/-- The held split takes effect when both contexts are IDLE or OFF, and is cleared (R129). -/
def State.applyHeldSplit (s : State) : State :=
  match s.lmem.held with
  | none => s
  | some share => if s.bothResting then (s.setLmem { s.lmem with held := none }).applySplit share else s

/-- The next settings take effect at the return to IDLE, and are cleared (R131). -/
def State.applyNext (s : State) (c : Ctx) : State :=
  match (s.ctx c).next with
  | none => s
  | some st => (s.setCtx c { s.ctx c with next := none }).applySettings c st

/-! ### The end of a frame (R145, R148) -/

/-- The context after its frame has ended: IDLE, no frame, no geometry (R145 (3), (4)). -/
def Context.toIdle (c : Context) : Context := { c with state := .idle, frame := none, geo := none }

/-- The frame `f` of context `c` ends with outcome `o` (R145 (1) to (4), R148): its report, the release of its
entry, the return to IDLE with the release of held reads, the next settings and the held split. -/
def State.endFrame (s : State) (c : Ctx) (f : Frame) (o : FrameOutcome) : State :=
  let s1 := s.generate (s.frameReport c f.entry o f.account)
  let s2 := ((s1.releaseEntry c f.entry).examineEntries).plan
  (((s2.setCtx c (s2.ctx c).toIdle).emptyHolds c).applyNext c).applyHeldSplit

/-! ### Abort and drain (R146 to R148) -/

/-- The drain begins (R147): the first uncorrected row is e, the held rows below e are released. -/
def Frame.beginDrain (f : Frame) : Frame :=
  if f.draining then f
  else
    let f' := f.releaseBelow f.e
    { f' with
      draining := true
      rawFrom := f'.low
      rawTo := f'.low
      account := { f.account with firstUncorrected := some f.e } }

/-- The drain of context `c`'s aborted frame goes on while no emission is in progress: the next held row is written
raw, or the frame ends when every row written has retired (R147, R148). -/
def State.drain (s : State) (c : Ctx) : State :=
  match (s.ctx c).frame with
  | none => s
  | some f =>
    if (s.ctx c).state = .aborting ∧ s.warb.runs.get (requesterFor c) = none then
      let f' := f.beginDrain
      let s' := s.setCtx c { s.ctx c with frame := some f' }
      match f'.held with
      | row :: _ => s'.requestRow c f'.low row.length true
      | [] => if f'.unretired.isEmpty then s'.endFrame c f' f'.outcome else s'
    else s

/-- A context has a frame that can abort: it is in RUNNING or FINISHING (R146). -/
def CtxState.inFrame (x : CtxState) : Bool := decide (x = .running) || decide (x = .finishing)

/-- At the abort (R146): the context goes to ABORTING with outcome `o` and its stall timer stopped, FRAME_ABORT latches,
the band request lapses, and an emission not begun is withdrawn. Without a frame that can abort nothing happens. -/
def State.beginAbort (s : State) (c : Ctx) (o : FrameOutcome) : State :=
  if (s.ctx c).state.inFrame then
    (((s.setCtx c
        { (s.ctx c).mapFrame fun f => { f with outcome := o, stall := none } with state := .aborting }).latch
          .frameAbort).lapse c).withdraw (requesterFor c)
  else s

/-- The frame of context `c` aborts with outcome `o` if it is in RUNNING or FINISHING (R146), and its drain begins
(R147). -/
def State.abort (s : State) (c : Ctx) (o : FrameOutcome) : State :=
  if (s.ctx c).state.inFrame then (s.beginAbort c o).drain c else s

/-- The frames of both contexts abort at one moment (R183 (1)): each that can abort has begun its abort, its band request
lapsed, before either drains. The spec gives no order between the two; context 0 drains first, so where both drains end
at the abort its report takes the lower sequence number (DESIGN CHOICE, log 25). -/
def State.abortBoth (s : State) (o : FrameOutcome) : State :=
  let s1 := (s.beginAbort .ctx0 o).beginAbort .ctx1 o
  let s2 := if (s.ctx .ctx0).state.inFrame then s1.drain .ctx0 else s1
  if (s.ctx .ctx1).state.inFrame then s2.drain .ctx1 else s2

/-! ### Frame starts (R135, R136) -/

/-- The frame state at a frame start (R135 (2)). -/
def Frame.fresh (id : Nat) (e : Option EpochEntry) : Frame :=
  let shot := (e.map (·.shot)).getD ⟨1, 0, 0, 0, 1⟩
  { entry := id, nb := shot.nb, br := shot.br, nextRow := 0, nextX := 0, low := 0, held := [], e := 0, record := none,
    draining := false, rawFrom := 0, rawTo := 0, unretired := [], stall := none, account := Account.zero,
    outcome := .complete }

/-- A frame binds an entry and begins; the context is RUNNING (R135 (1) to (3)). -/
def State.beginFrame (s : State) (c : Ctx) : State :=
  let b := s.bindEpoch c
  let s1 := b.1.plan
  s1.setCtx c { s1.ctx c with state := .running, frame := some (Frame.fresh b.2 (s1.mept.find b.2)) }

/-- A pass frame (R136): an entry bound and released at once, and a COMPLETE report. -/
def State.passFrame (s : State) (c : Ctx) : State :=
  let b := s.bindEpoch c
  let s1 := b.1.plan
  let s2 := s1.generate (s1.frameReport c b.2 .complete { Account.zero with firstUncorrected := some 0 })
  ((s2.releaseEntry c b.2).examineEntries).plan

/-! ### The raster (R137 to R140) -/

/-- The expected next address (R137). -/
def Frame.expected (f : Frame) (a : FrameArea) : Nat := a.at f.nextRow (8 * f.nextX)

/-- The raster rules of R137 for a write of a frame that it does or does not start. -/
def Frame.inSequence (f : Frame) (a : FrameArea) (w : UpWrite) (starts : Bool) : Bool :=
  (starts || decide (w.first ≠ a.base)) && decide (w.first = f.expected a) && w.fullStrobes &&
    a.covers w.first w.last && decide ((a.rowsTouched w.first w.last).length ≤ 2)

/-- With the rows a write touches added, the held run holds at most `depth` rows (R140). -/
def Frame.fits (f : Frame) (rows : List Nat) (depth : Nat) : Bool :=
  decide (max (f.low + f.held.length) ((rows.getLast?.map (· + 1)).getD 0) - f.low ≤ depth)

/-- Pixel `i` of a beat. -/
def beatPixel (d : BeatData) (i : Nat) : Pixel := d.extractLsb' (64 * i) 64

/-- The four pixels of a beat. -/
def beatPixels (d : BeatData) : List Pixel := [beatPixel d 0, beatPixel d 1, beatPixel d 2, beatPixel d 3]

/-- Pixels added at the end of the last list. -/
def appendLast (ps : List Pixel) : List (List Pixel) → List (List Pixel)
  | [] => [ps]
  | [r] => [r ++ ps]
  | r :: rest => r :: appendLast ps rest

/-- One beat enters line memory at the expected place (R139, R140): a new row joins the run at its upper end, a row
already released is not held again. `width` is W. -/
def Frame.store (width : Nat) (f : Frame) (b : Beat) : Frame :=
  let ps := beatPixels b.data
  let held :=
    if f.nextRow < f.low then f.held
    else if f.low + f.held.length ≤ f.nextRow then f.held ++ [ps]
    else appendLast ps f.held
  if width ≤ f.nextX + 4 then { f with held := held, nextRow := f.nextRow + 1, nextX := 0 }
  else { f with held := held, nextX := f.nextX + 4 }

/-- A write's beats enter line memory. -/
def Frame.storeAll (width : Nat) (f : Frame) (bs : List Beat) : Frame := bs.foldl (Frame.store width) f

/-- The frame of context `c` is complete (R145). -/
def Context.completes (c : Context) : Option Frame :=
  match c.frame with
  | none => none
  | some f => if c.state = .finishing ∧ f.e = c.height ∧ f.unretired = [] then some f else none

/-- The frame of context `c` is reported COMPLETE and ends, if it is complete (R145). -/
def State.finishIfComplete (s : State) (c : Ctx) : State :=
  match (s.ctx c).completes with
  | none => s
  | some f => s.endFrame c f .complete

/-- The context after an accepted write: its data in line memory, the stall timer restarted, and FINISHING once row
H−1 has been received whole (R140, R149). -/
def Context.accept (c : Context) (w : UpWrite) (now : Time) : Context :=
  match c.frame with
  | none => c
  | some f =>
    let f' := f.storeAll c.settings.width w.beats
    if f'.nextRow = c.height then { c with state := .finishing, frame := some { f' with stall := none } }
    else { c with frame := some { f' with stall := some now } }

/-- Context `c` accepts a write: its data enters line memory, and an output row may become ready (R140, R142). -/
def State.acceptWrite (s : State) (c : Ctx) (w : UpWrite) : State :=
  (s.setCtx c ((s.ctx c).accept w s.time)).tryEmit c

/-! ### Offers (R11, R135 to R140) -/

/-- The three answers of a context controller (R11). -/
inductive Answer where
  | accept
  | decline
  | hold
  deriving DecidableEq, Repr

/-- A stray write is counted (R151). -/
def State.countStray (s : State) (c : Ctx) : State := s.setCtx c { s.ctx c with stray := (s.ctx c).stray + 1 }

/-- An offer in IDLE with a mode in effect other than TRANSPARENT (R135, R138). -/
def State.offerIdle (s : State) (c : Ctx) (a : FrameArea) (w : UpWrite) : Answer × State :=
  if w.first ≠ a.base then (.decline, s.countStray c)
  else
    let s1 := s.beginFrame c
    match (s1.ctx c).frame with
    | none => (.decline, s1)
    | some f =>
      if f.inSequence a w true then (.accept, ((s1.acceptWrite c w).requestNext c).finishIfComplete c)
      else (.decline, (s1.abort c .abortSequence).countStray c)

/-- An offer in IDLE with mode in effect TRANSPARENT (R136). -/
def State.offerPass (s : State) (c : Ctx) (a : FrameArea) (w : UpWrite) : Answer × State :=
  (.decline, if w.first = a.base then s.passFrame c else s)

/-- An offer answered as in FINISHING and ABORTING: a frame start is held back, another write is a stray (R140,
R146). -/
def State.offerBusy (s : State) (c : Ctx) (a : FrameArea) (w : UpWrite) : Answer × State :=
  if w.first = a.base then (.hold, s) else (.decline, s.countStray c)

/-- An offer in RUNNING (R137, R138, R140). -/
def State.offerRunning (s : State) (c : Ctx) (a : FrameArea) (w : UpWrite) : Answer × State :=
  match (s.ctx c).frame with
  | none => (.hold, s)
  | some f =>
    if f.inSequence a w false then
      if f.fits (a.rowsTouched w.first w.last) (s.ctx c).depth then
        (.accept, (s.acceptWrite c w).finishIfComplete c)
      else (.hold, s)
    else (s.abort c .abortSequence).offerBusy c a w

/-- Context `c`'s answer to a write whose first byte is a byte of its frame area `a` (R11). -/
def State.offer (s : State) (c : Ctx) (a : FrameArea) (w : UpWrite) : Answer × State :=
  match (s.ctx c).state with
  | .off => (.decline, s)
  | .idle => if (s.ctx c).mode = .transparent then s.offerPass c a w else s.offerIdle c a w
  | .running => s.offerRunning c a w
  | .finishing => s.offerBusy c a w
  | .aborting => s.offerBusy c a w

/-! ### The stall timer (R149) -/

/-- The stall timer of context `c` runs: in RUNNING, neither applying backpressure nor waiting for a deferred band. -/
def State.stallRuns (s : State) (c : Ctx) : Bool :=
  decide ((s.ctx c).state = .running) && !decide (s.pb.heldBy = some c) && !s.waitsForDeferred c

/-- The frame with its stall timer stopped, going on, or restarted from 0 when it resumes (R149). -/
def Frame.restall (f : Frame) (runs : Bool) (now : Time) : Frame :=
  { f with stall := if runs then some (f.stall.getD now) else none }

/-- The stall timer of context `c` after an event. -/
def State.settleStall (s : State) (c : Ctx) : State := s.mapFrame c fun f => f.restall (s.stallRuns c) s.time

/-- The end of a command: the stall timers and the arbiter follow what it left (R149, R156, R158). -/
def State.settle (s : State) : State :=
  let s' := (s.settleStall .ctx0).settleStall .ctx1
  s'.setWarb s'.warb.settle

/-- The stall timer of context `c` has run for the stall limit (R149). -/
def State.stallDue (s : State) (c : Ctx) : Bool :=
  match (s.ctx c).frame with
  | none => false
  | some f => match f.stall with
    | none => false
    | some t => decide ((s.ctx c).state = .running) && decide ((s.ctx c).settings.stall ≤ elapsed t s.time)

end Sys2Proof.Machine
end

