-- ==== Sys2Proof/Machine/Monitor.lean ====
section
/-! DEFINITION. The lens line receiver (R20 to R28) and the position monitor (R29 to R38), with the TRACKING record's
effect on the monitor, the estimator and a waiting deferral (R36, R54, R56). -/

namespace Sys2Proof.Machine

/-! ### The line -/

/-- The microseconds of 30 bit times, the gap that abandons a telegram (R22). -/
def LineRate.gap : LineRate → Nat
  | .baud250k => 120
  | .baud500k => 60
  | .baud1M => 30
  | .baud2M => 15

/-- The microseconds from a start bit to the end of the stop bit: 10 bit times (section 2.1). -/
def LineRate.character : LineRate → Nat
  | .baud250k => 40
  | .baud500k => 20
  | .baud1M => 10
  | .baud2M => 5

/-- The gap before the start bit of a character whose stop bit ends now exceeds 30 bit times (R22 (2)). -/
def State.gapBefore (s : State) : Bool :=
  decide (s.stl.lineRate.gap + s.stl.lineRate.character < elapsed s.llr.lastEnd s.time)

/-- 30 bit times have passed since the last held byte (R22 (2)). -/
def State.gapDue (s : State) : Bool := decide (s.stl.lineRate.gap ≤ elapsed s.llr.lastEnd s.time)

/-- The assembler returns to HUNT. -/
def LineReceiver.hunt (l : LineReceiver) : LineReceiver := { l with asm := .hunt }

/-! ### The position monitor: candidates (R27, R29 to R34) -/

/-- A candidate sample (R27). -/
structure Candidate where
  arrival : Time
  sample  : Sample
  deriving DecidableEq, Repr

/-- The early test (R29). -/
def PositionMonitor.isEarly (m : PositionMonitor) (arrival : Time) : Bool :=
  match m.prevArrival with
  | none => false
  | some p => decide (m.lower ≠ 0) && decide (signedDiff arrival p < (m.lower : Int))

/-- The candidate's arrival becomes the previous arrival time (R29). -/
def PositionMonitor.note (m : PositionMonitor) (arrival : Time) : PositionMonitor := { m with prevArrival := some arrival }

/-- An early candidate is dropped and counted; in ACQUIRE the timely count returns to 0 (R29). -/
def PositionMonitor.dropEarly (m : PositionMonitor) : PositionMonitor :=
  { m with early := m.early + 1, timely := if m.pos = .acquire then 0 else m.timely }

/-- A stale candidate: the track holds a sample that is not earlier (R30). -/
def Track.staleAt (t : Track) (x : Time) : Bool :=
  match t.newest with
  | some n => !later x n.t
  | none => false

/-- An implausible candidate: its focus lies further than the jump limit from the newest held sample's (R31). -/
def Track.implausibleAt (t : Track) (focus jump : Nat) : Bool :=
  match t.newest with
  | some n => decide (jump < absDiff focus n.focus)
  | none => false

/-- The implausible run extended or restarted by a candidate (R31). -/
def extendRun (run : Option (Nat × Nat)) (focus jump : Nat) : Nat × Nat :=
  match run with
  | none => (1, focus)
  | some (n, last) => if absDiff focus last ≤ jump then (n + 1, focus) else (1, focus)

/-- In ACQUIRE the timely count is now `n`; at the recover count the state becomes TRACK (R32 to R34). -/
def PositionMonitor.recovered (m : PositionMonitor) (n : Nat) : PositionMonitor :=
  { m with timely := n, pos := if m.recover ≤ n then .track else .acquire }

/-- Insertion outside TRACK: the monitor's step toward TRACK, with its event (R32 to R34). -/
def State.advanceTimely (s : State) (n : Nat) : State :=
  (s.setPmon (s.pmon.recovered n)).latchIf (decide (s.pmon.recover ≤ n)) .posTrack

/-- The implausible run is emptied. -/
def State.emptyRun (s : State) : State := s.setPmon { s.pmon with run := none }

/-- In LOST a candidate that is not early starts a new acquisition (R34). -/
def State.startAcquisition (s : State) (x : Sample) : State := ((s.clearTrack.insertSample x).emptyRun).advanceTimely 1

/-- A re-home (R32). -/
def State.rehome (s : State) (x : Sample) : State :=
  let s1 := ((s.clearTrack.insertSample x).emptyRun).latch .posRehome
  if s1.pmon.pos = .acquire then s1.advanceTimely 1 else s1

/-- An implausible candidate (R31): counted, the run extended, and at the re-home count a re-home. -/
def State.judgeImplausible (s : State) (x : Sample) : State :=
  let run := extendRun s.pmon.run x.focus s.pmon.jump
  let s1 := (s.setPmon { s.pmon with implausible := s.pmon.implausible + 1, run := some run }).latch .posImplausible
  if s1.pmon.rehome ≤ run.1 then (s1.rehome x).offerInsertion else s1

/-- An accepted candidate (R33). -/
def State.acceptSample (s : State) (x : Sample) : State :=
  let s1 := (s.insertSample x).emptyRun
  if s1.pmon.pos = .acquire then s1.advanceTimely (s1.pmon.timely + 1) else s1

/-- A candidate in ACQUIRE or TRACK that is not early: the stale and plausibility tests, then acceptance (R30 to
R33). -/
def State.judgeHeld (s : State) (x : Sample) : State :=
  if s.ptrk.staleAt x.t then s.setPmon { s.pmon with stale := s.pmon.stale + 1 }
  else if s.ptrk.implausibleAt x.focus s.pmon.jump then s.judgeImplausible x
  else (s.acceptSample x).offerInsertion

/-- The monitor judges a candidate (R29 to R34). -/
def State.judge (s : State) (k : Candidate) : State :=
  let s1 := s.setPmon (s.pmon.note k.arrival)
  if s.pmon.isEarly k.arrival then
    (s1.setPmon s1.pmon.dropEarly).latchIf (decide (s.pmon.pos = .track)) .posEarly
  else if s.pmon.pos = .lost then (s1.startAcquisition k.sample).offerInsertion
  else s1.judgeHeld k.sample

/-! ### Telegrams (R23 to R27) -/

/-- Byte `i` of a telegram as a number. -/
def telegramByte (bs : List Byte) (i : Nat) : Nat := ((bs[i]?).getD 0).toNat

/-- The nine bytes sum to 0 modulo 256 (R23). -/
def telegramGood (bs : List Byte) : Bool := decide ((bs.map fun b => b.toNat).sum % 256 = 0)

/-- A bad telegram (R24). -/
def State.badTelegram (s : State) : State :=
  let n := s.llr.consecBad + 1
  (s.setLlr { s.llr with bad := s.llr.bad + 1, consecBad := if s.llr.badLimit ≤ n then 0 else n }).latchIf
    (decide (s.llr.badLimit ≤ n)) .lineFault

/-- The telegrams missed before sequence count `seq` (R26). -/
def missedBefore (prev : Option Nat) (seq : Nat) : Nat :=
  match prev with
  | none => 0
  | some p => (seq + 511 - p) % 256

/-- The receiver after a good position telegram (R26). -/
def LineReceiver.goodPosition (l : LineReceiver) (seq : Nat) : LineReceiver :=
  { l with
    good := l.good + 1
    consecBad := 0
    missed := l.missed + BitVec.ofNat 16 (missedBefore l.prevSeq seq)
    prevSeq := some seq }

/-- The candidate of a good position telegram whose check byte arrives now (R27). -/
def State.candidate (s : State) (bs : List Byte) : Candidate :=
  { arrival := s.time
    sample :=
      { t := s.time - BitVec.ofNat 32 (20 * telegramByte bs 3 + s.llr.latency)
        focus := 256 * telegramByte bs 4 + telegramByte bs 5
        iris := 256 * telegramByte bs 6 + telegramByte bs 7 } }

/-- A complete telegram (R23): bad (R24), good of another type (R25), or a good position telegram (R26, R27). -/
def State.telegram (s : State) (bs : List Byte) : State :=
  if !telegramGood bs then s.badTelegram
  else if telegramByte bs 1 ≠ 0x31 then s.setLlr { s.llr with consecBad := 0 }
  else (s.setLlr (s.llr.goodPosition (telegramByte bs 2))).judge (s.candidate bs)

/-! ### Characters (R21 to R23) -/

/-- A character examined in HUNT (R21). -/
def State.huntCharacter (s : State) (b : Byte) (framingError : Bool) : State :=
  if b = 0xC5 ∧ framingError = false then s.setLlr { s.llr with asm := .assemble [b], lastEnd := s.time } else s

/-- A character in ASSEMBLE with no gap before it (R21 to R23). -/
def State.assembleCharacter (s : State) (held : List Byte) (b : Byte) (framingError : Bool) : State :=
  if framingError then s.setLlr s.llr.hunt
  else if held.length + 1 < 9 then s.setLlr { s.llr with asm := .assemble (held ++ [b]), lastEnd := s.time }
  else (s.setLlr s.llr.hunt).telegram (held ++ [b])

/-- A character whose stop bit ends now (R21, R22). A gap of more than 30 bit times before its start bit has
abandoned the telegram in progress. -/
def State.character (s : State) (b : Byte) (framingError : Bool) : State :=
  match s.llr.asm with
  | .hunt => s.huntCharacter b framingError
  | .assemble held =>
    if s.gapBefore then (s.setLlr s.llr.hunt).huntCharacter b framingError
    else s.assembleCharacter held b framingError

/-- The telegram in progress is abandoned by a gap of 30 bit times that has passed (R22 (2)). -/
def State.abandonDue (s : State) : Bool :=
  match s.llr.asm with
  | .hunt => false
  | .assemble _ => s.gapDue

/-! ### The timing window (R35) -/

/-- The timing window timer has reached the upper bound (R35). -/
def State.windowDue (s : State) : Bool :=
  match s.pmon.timer with
  | none => false
  | some t => decide (s.pmon.pos ≠ .lost) && decide (s.pmon.upper ≤ elapsed t s.time)

/-- The monitor after an expiry (R35). -/
def PositionMonitor.expire (m : PositionMonitor) : PositionMonitor :=
  { m with pos := .lost, timer := none, timely := 0, run := none }

/-- The timing window expires (R35); leaving TRACK abandons a waiting deferral (R37, R53). A deferral waits in TRACK
only. -/
def State.expireWindow (s : State) : State := ((s.setPmon s.pmon.expire).latch .posLost).abandonDeferral

/-! ### TRACKING (R36, R54, R56) -/

/-- A TRACKING record shortens the window below the time since the last insertion: the timer expires at once (R36). -/
def State.windowOverrun (s : State) : Bool :=
  match s.pmon.timer with
  | none => false
  | some t => decide (s.pmon.pos ≠ .lost) && decide (s.pmon.upper < elapsed t s.time)

/-- The record's expiry of the timing window, where it comes to one (R36). -/
def State.trackingExpiry (s : State) : State := if s.windowOverrun then s.expireWindow else s

/-- The record's effect on a waiting deferral, with the new settings in force (R54). -/
def State.trackingDeferral (s : State) : State :=
  match s.bpln.deferral with
  | none => s
  | some d =>
    if s.fest.mode = .await then (if s.waitDue then s.waitOut else s)
    else s.endDeferral (s.fest.ask s.ptrk d.time) false

/-- The record's settings replace those of the monitor and of the estimator (R36, R56). -/
def State.setTracking (s : State) (p : Params) : State := (s.setPmon (p.monitor s.pmon)).setFest p.estimator

/-- A TRACKING record is taken. Where it both lets the window expire and meets a waiting deferral, the order of the
two is free (log 9). -/
def State.track (s : State) (p : Params) : State :=
  let s1 := s.setTracking p
  if s1.windowOverrun && s1.bpln.deferral.isSome then
    if Config.trackingExpiryFirst s1.time then s1.trackingExpiry.trackingDeferral
    else s1.trackingDeferral.trackingExpiry
  else s1.trackingDeferral.trackingExpiry

/-! ### RESET of scope TRACKING (R38, R112) -/

/-- The motion state after a TRACKING reset: target and f_eff at the rest position of the active profile, or unset
while it is NONE, and strength 0 (R112). -/
def State.restMotion (s : State) : Motion :=
  if s.psto.hasActive then ⟨some s.psto.activeTable.rest, some s.psto.activeTable.rest, 0⟩ else ⟨none, none, 0⟩

/-- The monitor after a TRACKING reset (R38). -/
def PositionMonitor.restart (m : PositionMonitor) : PositionMonitor :=
  { m with pos := .lost, prevArrival := none, timer := none, timely := 0, run := none }

/-- A RESET record of scope TRACKING (R38, R42 (3), R112); leaving TRACK abandons a waiting deferral, which is then
planned from the motion state the reset leaves. -/
def State.resetTracking (s : State) : State :=
  ((((s.setBpln { s.bpln with motion := s.restMotion }).setPmon s.pmon.restart).setLlr
    { s.llr with consecBad := 0 }).clearTrack).abandonDeferral

end Sys2Proof.Machine
end

