-- ==== Sys2Proof/Machine/Lens.lean ====
section
/-! DEFINITION. The commands of the lens line, of the position monitor's and the estimator's timers, and of the frame
mark: LPL_CHARACTER, ASSEMBLY_GAP_TIMEOUT, TIMING_WINDOW_EXPIRY, DEFERRAL_WAIT_OUT, FRAME_MARK. -/

namespace Sys2Proof.Machine

/-- The receiver takes a character that ends now: the part is READY, and the character's start bit, 10 bit times ago, came
after the entry to READY (R20, R188 (4)). -/
def State.hears (s : State) : Bool := s.isReady && decide (s.lineWait = 0)

/-- LPL_CHARACTER (R20 to R34). -/
def execLplCharacter (dt : Nat) (b : Byte) (framingError : Bool) (s : State) : Host.Outcome State Fault Refusal :=
  let s1 := s.begin dt
  .next (if s1.hears then (s1.character b framingError).settle else s1)

/-- ASSEMBLY_GAP_TIMEOUT (R22 (2)): effective once 30 bit times have passed in ASSEMBLE. -/
def execAssemblyGapTimeout (dt : Nat) (s : State) : Host.Outcome State Fault Refusal :=
  let s1 := s.begin dt
  .next (if s1.isReady && s1.abandonDue then s1.setLlr s1.llr.hunt else s1)

/-- TIMING_WINDOW_EXPIRY (R35): effective once the upper bound has passed since the last insertion. -/
def execTimingWindowExpiry (dt : Nat) (s : State) : Host.Outcome State Fault Refusal :=
  let s1 := s.begin dt
  .next (if s1.windowDue then s1.expireWindow.settle else s1)

/-- DEFERRAL_WAIT_OUT (R52): effective once the wait limit has passed since the deferral start. -/
def execDeferralWaitOut (dt : Nat) (s : State) : Host.Outcome State Fault Refusal :=
  let s1 := s.begin dt
  .next (if s1.waitDue then s1.waitOut.settle else s1)

/-- A frame mark creates a marked entry (R59, R60), the removal conditions are examined (R66), and a planning run that
waited for an entry goes on (R95). -/
def State.mark (s : State) : State := ((s.createEntry s.time true ⟨false, false⟩).examineEntries).plan

/-- FRAME_MARK (R59): an edge outside READY is ignored. -/
def execFrameMark (dt : Nat) (s : State) : Host.Outcome State Fault Refusal :=
  let s1 := s.begin dt
  .next (if s1.isReady then s1.mark.settle else s1)

end Sys2Proof.Machine
end

