-- ==== Sys2Proof/Machine/Records.lean ====
section
/-! DEFINITION. The control record unit (R165 to R169): the effect of each record kind, and the counts of taken and
rejected slots. -/

namespace Sys2Proof.Machine

/-! ### The effect of each kind -/

/-- SHOT (R68). -/
def State.recordShot (s : State) (p : Params) : State := s.setMept { s.mept with shot := p.shot }

/-- Settings of context `c` changed by a record: at once in OFF or IDLE, in the next settings otherwise (R131). -/
def State.changeSettings (s : State) (c : Ctx) (f : Settings → Settings) : State :=
  if (s.ctx c).state.resting then s.applySettings c (f (s.ctx c).settings)
  else s.setCtx c { s.ctx c with next := some (f ((s.ctx c).next.getD (s.ctx c).settings)) }

/-- The view of a CONTEXT_OPTICS record takes effect when the record is taken, in every state (R131). -/
def Context.look (c : Context) (p : Params) : Context :=
  { c with settings := { c.settings with view := viewOf (byteOf p.p1 1) } }

/-- CONTEXT_GEOMETRY (R131). -/
def State.recordGeometry (s : State) (c : Ctx) (p : Params) : State := s.changeSettings c p.geometry

/-- CONTEXT_OPTICS (R131). The next settings, where none are held, begin as a copy of the settings in force before the
record's fields are written. -/
def State.recordOptics (s : State) (c : Ctx) (p : Params) : State :=
  let s1 := s.changeSettings c p.optics
  s1.setCtx c ((s1.ctx c).look p)

/-- LINE_MEMORY (R129). -/
def State.recordLineMemory (s : State) (p : Params) : State :=
  if s.bothResting then s.applySplit p.share else s.setLmem { s.lmem with held := some p.share }

/-- MOTION (R28, R111). -/
def State.recordMotion (s : State) (p : Params) : State :=
  (s.setBpln { s.bpln with settings := p.motion }).setLlr (p.line s.llr)

/-- PROFILE_WINDOW (R76). -/
def State.recordProfileWindow (s : State) (p : Params) : State :=
  (s.setPb { s.pb with profileBase := p.profileWindow }).setPsto
    { s.psto with coverage := if s.psto.pendingSwap then s.psto.coverage else 0 }

/-- EVENT_ACK (R172, R173). -/
def State.recordAck (s : State) (p : Params) : State := s.setEvu (s.evu.acknowledge s.time (eventsOf p.p1))

/-- EVENT_MASK (R167, R171, R173). -/
def State.recordMask (s : State) (p : Params) : State :=
  (s.setEvu (s.evu.remask s.isReady (eventsOf p.p1))).setCrec { s.crec with limit := p.rejectLimit }

/-- ARBITER (R160). -/
def State.recordArbiter (s : State) (p : Params) : State :=
  s.setWarb (s.warb.configure p.priorities p.preempt p.latency)

/-- STATUS_REQUEST (R176). -/
def State.recordStatus (s : State) : State := s.generate s.statusReport

/-- RESET of scope ALL (R183): in READY the record becomes the pending reset and both contexts abort. The spec gives no
order between the two aborts; context 0 comes first (DESIGN CHOICE, log 25). In LOADING the record is counted and ends the
image, which the loader sees to (R187 (6)). -/
def State.recordResetAll (s : State) : State :=
  if s.isReady then (s.setStl { s.stl with pendingReset := true }).abortBoth .abortReset else s

/-- RESET of scope CONTEXT (R150). -/
def State.recordResetContext (s : State) (c : Ctx) : State := s.abort c .abortReset

/-- RESET of scope PROFILES (R91). -/
def State.recordResetProfiles (s : State) : State := s.setPsto ProfileStore.reset

/-! ### Counting (R165 to R167) -/

/-- The unit after a taken record. -/
def ControlUnit.take (u : ControlUnit) : ControlUnit := { u with taken := u.taken + 1, consec := 0 }

/-- A record is taken: its effect is applied, and the record is counted (R165, R167). -/
def State.takeWith (s : State) (effect : State → State) : State :=
  let s1 := effect s
  s1.setCrec s1.crec.take

/-- The unit after a rejected slot (R166, R167). -/
def ControlUnit.reject (u : ControlUnit) (r : RejectReason) : ControlUnit :=
  { u with
    rejected := u.rejected + 1
    reason := r
    consec := if u.limit ≤ u.consec + 1 then 0 else u.consec + 1 }

/-- A slot is rejected (R166, R167). -/
def State.rejectSlot (s : State) (r : RejectReason) : State :=
  (s.setCrec (s.crec.reject r)).latchIf (decide (s.crec.limit ≤ s.crec.consec + 1)) .controlFault

/-! ### A slot examined (R165 to R169) -/

/-- The context that a target names. -/
def ctxOf : Nat → Ctx
  | 0 => .ctx0
  | _ => .ctx1

/-- The effect of a RESET record of a scope (R169). -/
def resetEffect (scope : Nat) (s : State) : State :=
  match scope with
  | 0 => s.recordResetAll
  | 1 => s.recordResetContext .ctx0
  | 2 => s.recordResetContext .ctx1
  | 3 => s.resetTracking
  | _ => s.recordResetProfiles

/-- The effect of a record of a kind 1..14 (Table 10.2). -/
def recordEffect (kind target : Nat) (p : Params) (s : State) : State :=
  match kind with
  | 1 => s.recordShot p
  | 2 => s.recordGeometry (ctxOf target) p
  | 3 => s.recordOptics (ctxOf target) p
  | 4 => s.recordLineMemory p
  | 5 => s.track p
  | 6 => s.recordMotion p
  | 7 => s.recordProfileWindow p
  | 8 => s.commitProfile
  | 9 => s.recordAck p
  | 10 => s.recordMask p
  | 11 => s.setRing p
  | 12 => s.recordArbiter p
  | 13 => s.recordStatus
  | _ => resetEffect target s

/-- A slot is examined: rejected, or taken with its kind's effect (R165, R166). -/
def State.examineSlot (s : State) (slot : Slot) : State :=
  match slotReason slot with
  | some r => s.rejectSlot r
  | none => s.takeWith (recordEffect (kindOf slot.data) (targetOf slot.data) (paramsOf slot.data))

/-- What a slot leaves takes its course before the next slot is examined (R165): the stall timers, the latency timer and a
grant follow (R149, R156, R158), and an owner at a boundary whose count has reached L is suspended (R159). -/
def State.completeSlot (s : State) : State := s.settle.setWarb s.settle.warb.suspendIfDue

/-- The slots of a burst, in increasing address order, each applied completely before the next is examined (R165); the end
of the command completes the last. A RESET ALL record is the last slot examined (R169). -/
def examineSlots : List Slot → State → State
  | [], s => s
  | [x], s => if s.stl.pendingReset then s else s.examineSlot x
  | x :: y :: t, s => if s.stl.pendingReset then s else examineSlots (y :: t) (s.examineSlot x).completeSlot

end Sys2Proof.Machine
end

