-- ==== Sys2Proof/Machine/Intake.lean ====
section
/-! DEFINITION. The head of the upstream write channel (R1, R6, R8 to R12, R19): what becomes of it when it is taken,
offered or held back. -/

namespace Sys2Proof.Machine

/-- The head of the write channel leaves it. -/
def State.dropHead (s : State) : State := s.setPb { s.pb with channel := s.pb.channel.tail, heldBy := none }

/-- An entry joins the response queue at its newest end (R12). -/
def State.appendResponse (s : State) (e : RespEntry) : State := s.setPb { s.pb with responses := s.pb.responses ++ [e] }

/-- The PASS run of a write: one burst (R154). -/
def passRun (w : UpWrite) : Run := ⟨.passWrite w, [⟨w.addr.toNat, w.beats.length⟩], false⟩

/-- The oldest pass write not yet issued is requested as PASS, where no other is (R8). -/
def State.presentPass (s : State) : State :=
  match s.warb.runs.pass, s.nextPass with
  | none, some w => s.request .pass (passRun w)
  | _, _ => s

/-- The head is taken as a pass write (R8). -/
def State.passHead (s : State) (w : UpWrite) : State :=
  (s.dropHead.appendResponse ⟨.passed, w, false, none⟩).presentPass

/-- The head is taken as an intercepted write, whose entry completes as it is appended (R11 (1)). -/
def State.interceptHead (s : State) (w : UpWrite) : State :=
  (s.dropHead.appendResponse ⟨.intercepted, w, false, some .okay⟩).popResponses

/-- The head stays, held back by context `c` (R11 (3)). -/
def State.holdHead (s : State) (c : Ctx) : State := s.setPb { s.pb with heldBy := some c }

/-- No write is taken or offered: the response queue is full, a RESET ALL record is pending, or the part is in reset
(R1). -/
def State.writeBlocked (s : State) : Bool :=
  decide (32 ≤ s.pb.responses.length) || s.stl.pendingReset || decide (s.stl.part = .inReset)

/-- What the head's first byte makes of it (R6, R11, R19). -/
inductive Route where
  | pass
  | control
  | profile (base : Nat)
  | offered (c : Ctx) (a : FrameArea)
  deriving DecidableEq, Repr

/-- A write into frame window `c`: offered where its first byte is a frame-area byte and the context is not OFF. -/
def State.frameRoute (s : State) (c : Ctx) (w : UpWrite) : Route :=
  if (s.ctx c).state = .off then .pass
  else match (s.ctx c).area with
    | none => .pass
    | some a => if a.holds w.first then .offered c a else .pass

/-- The route of a write (R6, R11); in LOADING every write passes (R19). -/
def State.route (s : State) (w : UpWrite) : Route :=
  if !s.isReady then .pass
  else match s.classify w.first with
    | .ring => .pass
    | .outside => .pass
    | .control => .control
    | .profile base => .profile base
    | .frame c => s.frameRoute c w

/-- The head `w` is dealt with once: taken along its route, or held back. -/
def State.takeAlong (s : State) (w : UpWrite) : Route → State
  | .pass => s.passHead w
  | .control => examineSlots (w.slots s.pb.controlBase) (s.passHead w)
  | .profile base => (s.captureProfile base w).passHead w
  | .offered c a =>
    match s.offer c a w with
    | (.accept, s') => s'.interceptHead w
    | (.decline, s') => s'.passHead w
    | (.hold, s') => s'.holdHead c

/-- The context that holds back the head has no frame any more, so the head is offered again (R148). -/
def State.reofferDue (s : State) : Bool :=
  match s.pb.heldBy with
  | none => false
  | some c => (s.ctx c).state.resting

/-- The head of the write channel is dealt with, again after a drain that ended at its abort (R148). The number
bounds the offers. -/
def offerHead : Nat → State → State
  | 0, s => s
  | n + 1, s =>
    match s.pb.channel with
    | [] => s
    | w :: _ =>
      if s.writeBlocked then s
      else
        let s' := s.takeAlong w (s.route w)
        if s'.reofferDue then offerHead n s' else s'

/-- The head of the write channel is dealt with. -/
def State.offerHead (s : State) : State := Sys2Proof.Machine.offerHead 4 s

/-- A write held back by a context that has returned to IDLE or gone OFF is offered again (R145 (5), R148). -/
def State.reofferAfterIdle (s : State) : State := if s.reofferDue then s.offerHead else s

end Sys2Proof.Machine
end

