-- ==== Sys2Proof/Machine/MemorySide.lean ====
section
/-! DEFINITION. The commands of the memory side and the remaining timers: BURST_BEGUN, BURST_ISSUED,
PREEMPTION_SUSPEND, MEMORY_WRITE_RESPONSE, STALL_TIMEOUT, ATTN_GAP_END. -/

namespace Sys2Proof.Machine

/-! ### Bursts (R155, R157) -/

/-- The row a run writes, 0 for a run that writes none. -/
def RunBody.rowNumber : RunBody → Nat
  | .passWrite _ => 0
  | .row _ y _ => y
  | .record => 0

/-- The beats of burst `b` of a run that still has `left` bursts, formed as the burst is issued (R154). -/
def State.burstBeats (s : State) (left : Nat) (b : BurstPlan) : RunBody → List Beat
  | .passWrite w => w.beats
  | .row c y raw => s.rowBeats c y raw left b
  | .record => match s.rpw.current with
    | some r => [r.beat (8 - left)]
    | none => []

/-- The burst as it appears on the memory side: a pass write with its own type and size (R3), the part's own bursts
incrementing and of full 32-byte beats. -/
def State.burstOutput (s : State) (r : Requester) (left : Nat) (b : BurstPlan) (body : RunBody) : Output :=
  match body with
  | .passWrite w => .memWrite r.tag b.addr w.btype w.size (s.burstBeats left b body)
  | .row _ _ _ => .memWrite r.tag b.addr .incr 32 (s.burstBeats left b body)
  | .record => .memWrite r.tag b.addr .incr 32 (s.burstBeats left b body)

/-- The arbiter after a burst of the owner's run `run` is issued, `rest` being the bursts left (R155, R157, R158). -/
def Arbiter.issue (a : Arbiter) (r : Requester) (run : Run) (rest : List BurstPlan) : Arbiter :=
  { a with
    runs := a.runs.set r (if rest.isEmpty then none else some { run with bursts := rest, started := true })
    issued := a.issued.set r (a.issued.get r ++ [⟨run.body.rowNumber, rest.isEmpty⟩])
    timer := if rest.isEmpty then none else a.timer.map (· + 1)
    begun := false
    owner := if rest.isEmpty then none else a.owner }

/-- The frame after output row e is emitted (R142, R151). -/
def Frame.emitted (f : Frame) (y : Nat) : Frame :=
  { f with
    e := f.e + 1
    record := none
    unretired := f.unretired ++ [y]
    account :=
      { f.account with
        rowsCorrected :=
          f.account.rowsCorrected +
            (match f.record with
             | some r => if r.kind = .noProfile then 0 else 1
             | none => 0) } }

/-- What follows an emitted row (R141, R143, R147): the drain of an aborted frame, the release of every held row after
the last output row, or the request for the next row's band. -/
def State.afterRow (s : State) (c : Ctx) : State :=
  match (s.ctx c).frame with
  | none => s
  | some f =>
    if (s.ctx c).state = .aborting then s.drain c
    else if f.e < (s.ctx c).height then s.requestNext c
    else s.mapFrame c fun f => f.releaseBelow (s.ctx c).height

/-- An output row's run has issued its last burst (R142, R143). -/
def State.rowEmitted (s : State) (c : Ctx) (y : Nat) : State := (s.mapFrame c fun f => f.emitted y).afterRow c

/-- The frame after a drained row's run has issued its last burst (R147). -/
def Frame.drained (f : Frame) (y : Nat) : Frame :=
  { f.releaseBelow (f.low + 1) with rawTo := f.low + 1, unretired := f.unretired ++ [y] }

/-- A drained row's run has issued its last burst (R147). -/
def State.rowDrained (s : State) (c : Ctx) (y : Nat) : State := (s.mapFrame c fun f => f.drained y).drain c

/-- The end of a run (R157), by what it wrote. -/
def State.endRun (s : State) : RunBody → State
  | .passWrite _ => (s.setPb { s.pb with responses := issuePass s.pb.responses }).presentPass
  | .row c y false => s.rowEmitted c y
  | .row c y true => s.rowDrained c y
  | .record => (s.setRpw { s.rpw with queue := writeFirst s.rpw.queue }).presentReport

/-- The first burst `b` of what is left of the owner's run is issued (R155). -/
def State.issueBurst (s : State) (r : Requester) (run : Run) (b : BurstPlan) (rest : List BurstPlan) : State :=
  let s1 := (s.emit (s.burstOutput r run.bursts.length b run.body)).setWarb (s.warb.issue r run rest)
  if rest.isEmpty then s1.endRun run.body else s1

/-- The owner's next burst: the owner, its run, the burst, the bursts after it. None when the channel has no owner, and
when the owner is to be suspended before its next burst (R159). -/
def Arbiter.nextBurst (a : Arbiter) : Option (Requester × Run × BurstPlan × List BurstPlan) :=
  if a.suspensionDue then none
  else match a.owner with
    | none => none
    | some r => match a.runs.get r with
      | none => none
      | some run => match run.bursts with
        | [] => none
        | b :: rest => some (r, run, b, rest)

/-- BURST_ISSUED (R155). -/
def execBurstIssued (dt : Nat) (s : State) : Host.Outcome State Fault Refusal :=
  let s1 := s.begin dt
  .next (match s1.warb.nextBurst with
    | none => s1
    | some (r, run, b, rest) => (s1.issueBurst r run b rest).settle)

/-- The arbiter after the owner's next burst has begun (R155). -/
def Arbiter.beginBurst (a : Arbiter) (r : Requester) (run : Run) : Arbiter :=
  { a with begun := true, runs := a.runs.set r (some { run with started := true }) }

/-- BURST_BEGUN (R154, R155): the run can no longer be withdrawn. -/
def execBurstBegun (dt : Nat) (s : State) : Host.Outcome State Fault Refusal :=
  let s1 := s.begin dt
  .next (match s1.warb.nextBurst with
    | none => s1
    | some (r, run, _, _) => s1.setWarb (s1.warb.beginBurst r run))

/-- PREEMPTION_SUSPEND (R159): effective when the count has reached L and the owner stands at a burst boundary. -/
def execPreemptionSuspend (dt : Nat) (s : State) : Host.Outcome State Fault Refusal :=
  let s1 := s.begin dt
  .next (if s1.warb.suspensionDue then (s1.setWarb s1.warb.suspend).settle else s1)

/-! ### Responses (R161, R162) -/

/-- A response other than OKAY (section 9.4). -/
def isError : Resp → Bool
  | .okay => false
  | .error _ => true

/-- An error response to an EMIT burst is counted and latched (R162). -/
def State.countError (s : State) (resp : Resp) : State :=
  if isError resp then (s.setWarb { s.warb with errors := s.warb.errors + 1 }).latch .memoryError else s

/-- Row `y` of context `c` retires (R144): the hold queue is told, and a frame that waited for it ends. -/
def State.retireRow (s : State) (c : Ctx) (y : Nat) : State :=
  let s1 := (s.mapFrame c fun f => { f with unretired := f.unretired.filter fun r => decide (r ≠ y) }).retireInHolds c y
  if (s1.ctx c).state = .aborting then s1.drain c else s1.finishIfComplete c

/-- A response to an EMIT burst of context `c` (R161, R162). -/
def State.rowResponse (s : State) (c : Ctx) (b : IssuedBurst) (resp : Resp) : State :=
  if b.last then (s.countError resp).retireRow c b.row else s.countError resp

/-- A response to a REPORT burst (R161, R162, R177). -/
def State.reportResponse (s : State) (b : IssuedBurst) (resp : Resp) : State :=
  let s1 := s.latchIf (isError resp) .memoryError
  if b.last then (s1.setRpw { s1.rpw with queue := completeFirst s1.rpw.queue }).presentReport else s1

/-- A response to a PASS burst (R12, R13, R161). -/
def State.passResponse (s : State) (resp : Resp) : State :=
  (s.setPb { s.pb with responses := completePass resp s.pb.responses }).popResponses

/-- The requester of the oldest issued burst `b` is handed the response (R161). -/
def State.handResponse (s : State) (b : IssuedBurst) (resp : Resp) : Requester → State
  | .pass => s.passResponse resp
  | .emit0 => s.rowResponse .ctx0 b resp
  | .emit1 => s.rowResponse .ctx1 b resp
  | .report => s.reportResponse b resp

/-- A write response under a tag (R161). One under a tag with no issued burst is discarded. -/
def State.memoryResponse (s : State) (tag : Nat) (resp : Resp) : State :=
  match requesterOf tag with
  | none => s
  | some r => match s.warb.issued.get r with
    | [] => s
    | b :: rest =>
      (((s.setWarb { s.warb with issued := s.warb.issued.set r rest }).handResponse b resp r).reofferAfterIdle).settle

/-- MEMORY_WRITE_RESPONSE (R161). In reset every list is empty and the response is discarded (R182). -/
def execMemoryWriteResponse (dt tag : Nat) (resp : Resp) (s : State) : Host.Outcome State Fault Refusal :=
  .next ((s.begin dt).memoryResponse tag resp)

/-! ### Timers (R149, R173) -/

/-- STALL_TIMEOUT (R149): effective once the stall timer has run for the stall limit. -/
def execStallTimeout (dt : Nat) (c : Ctx) (s : State) : Host.Outcome State Fault Refusal :=
  let s1 := s.begin dt
  .next (if s1.stallDue c then (s1.abort c .abortStall).reofferAfterIdle.settle else s1)

/-- 2 µs have passed since the start of a gap (R173 (3)). -/
def State.gapOver (s : State) : Bool :=
  match s.evu.line with
  | .released => false
  | .asserted => false
  | .gap t => decide (2 ≤ elapsed t s.time)

/-- ATTN_GAP_END (R173 (3)). -/
def execAttnGapEnd (dt : Nat) (s : State) : Host.Outcome State Fault Refusal :=
  let s1 := s.begin dt
  .next (if s1.isReady && s1.gapOver then s1.setEvu s1.evu.drive else s1)

end Sys2Proof.Machine
end

