-- ==== Sys2Proof/Machine/RecordRows.lean ====
section
/-! DEFINITION. The control records as commands of their own: each takes one record of its kind from the control window
while the part is READY (R165). The write that carries it is UPSTREAM_WRITE, which examines the slots by the same
effects (assumption log 14). -/

namespace Sys2Proof.Machine

/-- A record reaches the control record unit: its time passes, and where the unit takes records, `f` is done. -/
def State.recordRow (s : State) (dt : Nat) (f : State → State) : State :=
  if (s.begin dt).takesRecords then f (s.begin dt) else s.begin dt

/-- A record is taken with its effect, after which timers and the arbiter follow (R149, R156). -/
def State.takeSettled (s : State) (effect : State → State) : State := (s.takeWith effect).settle

/-- SHOT (R68). -/
def execShot (dt : Nat) (p : Params) (s : State) : Host.Outcome State Fault Refusal :=
  .next (s.recordRow dt fun x => x.takeWith fun y => y.recordShot p)

/-- CONTEXT_GEOMETRY (R131). -/
def execContextGeometry (dt : Nat) (c : Ctx) (p : Params) (s : State) : Host.Outcome State Fault Refusal :=
  .next (s.recordRow dt fun x => x.takeSettled fun y => y.recordGeometry c p)

/-- CONTEXT_OPTICS (R131). -/
def execContextOptics (dt : Nat) (c : Ctx) (p : Params) (s : State) : Host.Outcome State Fault Refusal :=
  .next (s.recordRow dt fun x => x.takeSettled fun y => y.recordOptics c p)

/-- LINE_MEMORY (R129). -/
def execLineMemory (dt : Nat) (p : Params) (s : State) : Host.Outcome State Fault Refusal :=
  .next (s.recordRow dt fun x => x.takeWith fun y => y.recordLineMemory p)

/-- TRACKING (R36, R54, R56). -/
def execTracking (dt : Nat) (p : Params) (s : State) : Host.Outcome State Fault Refusal :=
  .next (s.recordRow dt fun x => x.takeSettled fun y => y.track p)

/-- MOTION (R28, R111). -/
def execMotion (dt : Nat) (p : Params) (s : State) : Host.Outcome State Fault Refusal :=
  .next (s.recordRow dt fun x => x.takeWith fun y => y.recordMotion p)

/-- PROFILE_WINDOW (R76). -/
def execProfileWindow (dt : Nat) (p : Params) (s : State) : Host.Outcome State Fault Refusal :=
  .next (s.recordRow dt fun x => x.takeWith fun y => y.recordProfileWindow p)

/-- PROFILE_COMMIT (R79). -/
def execProfileCommit (dt : Nat) (s : State) : Host.Outcome State Fault Refusal :=
  .next (s.recordRow dt fun x => x.takeWith fun y => y.commitProfile)

/-- EVENT_ACK (R172). -/
def execEventAck (dt : Nat) (p : Params) (s : State) : Host.Outcome State Fault Refusal :=
  .next (s.recordRow dt fun x => x.takeWith fun y => y.recordAck p)

/-- EVENT_MASK (R167, R171). -/
def execEventMask (dt : Nat) (p : Params) (s : State) : Host.Outcome State Fault Refusal :=
  .next (s.recordRow dt fun x => x.takeWith fun y => y.recordMask p)

/-- REPORT_RING (R175). -/
def execReportRing (dt : Nat) (p : Params) (s : State) : Host.Outcome State Fault Refusal :=
  .next (s.recordRow dt fun x => x.takeWith fun y => y.setRing p)

/-- ARBITER (R160). -/
def execArbiter (dt : Nat) (p : Params) (s : State) : Host.Outcome State Fault Refusal :=
  .next (s.recordRow dt fun x => x.takeSettled fun y => y.recordArbiter p)

/-- STATUS_REQUEST (R176). -/
def execStatusRequest (dt : Nat) (s : State) : Host.Outcome State Fault Refusal :=
  .next (s.recordRow dt fun x => x.takeSettled fun y => y.recordStatus)

/-- RESET of scope ALL (R183). -/
def execResetAll (dt : Nat) (s : State) : Host.Outcome State Fault Refusal :=
  .next (s.recordRow dt fun x => x.takeSettled fun y => y.recordResetAll)

/-- RESET of scope CONTEXT (R150). -/
def execResetContext (dt : Nat) (c : Ctx) (s : State) : Host.Outcome State Fault Refusal :=
  .next (s.recordRow dt fun x => x.takeSettled fun y => y.recordResetContext c)

/-- RESET of scope TRACKING (R38, R112). -/
def execResetTracking (dt : Nat) (s : State) : Host.Outcome State Fault Refusal :=
  .next (s.recordRow dt fun x => x.takeSettled fun y => y.resetTracking)

/-- RESET of scope PROFILES (R91). -/
def execResetProfiles (dt : Nat) (s : State) : Host.Outcome State Fault Refusal :=
  .next (s.recordRow dt fun x => x.takeWith fun y => y.recordResetProfiles)

/-- A slot that fails a check is rejected; one that passes is no rejected slot, and nothing happens. -/
def State.rejectFailing (s : State) (slot : Slot) : State :=
  match slotReason slot with
  | some r => s.rejectSlot r
  | none => s

/-- RECORD_REJECTED (R165 to R167). -/
def execRecordRejected (dt : Nat) (slot : Slot) (s : State) : Host.Outcome State Fault Refusal :=
  .next (s.recordRow dt fun x => x.rejectFailing slot)

end Sys2Proof.Machine
end

