-- ==== Sys2Proof/Machine/StartUp.lean ====
section
/-! DEFINITION. Resets, the loading of the configuration image, and the entry to READY (chapter 11):
RESET_ALL_TAKES_EFFECT, PIN_RESET_ASSERT, PIN_RESET_RELEASE, IMAGE_HEADER, IMAGE_RECORD. -/

namespace Sys2Proof.Machine

/-! ### Resets (R182 to R184) -/

/-- No burst awaits its response and no run is granted, waiting or suspended (R163, R184 (4)). -/
def Arbiter.quiet (a : Arbiter) : Bool :=
  a.owner.isNone && cycleOrder.all fun r => (a.runs.get r).isNone && (a.issued.get r).isEmpty

/-- The five conditions of closing hold together (R184). -/
def State.closed (s : State) : Bool :=
  s.stl.pendingReset && s.bothResting && s.pb.holds.isEmpty && s.pb.responses.isEmpty && s.pb.reads.isEmpty &&
    s.warb.quiet && s.rpw.queue.isEmpty

/-- Every block at its value after reset and the part in LOADING; the writes the pipeline presents stay presented, and
the commands that wait stay waiting (R184). -/
def State.reload (s : State) : State :=
  (State.reset.setPb { PortBridge.reset with channel := s.pb.channel }).setPending s.pending

/-- RESET_ALL_TAKES_EFFECT (R184). -/
def execResetAllTakesEffect (dt : Nat) (s : State) : Host.Outcome State Fault Refusal :=
  let s1 := s.begin dt
  .next (if s1.closed then s1.reload else s1)

/-- STL in reset: the select line deasserted, no image progress (R182). -/
def StoreLoader.inReset : StoreLoader :=
  { StoreLoader.reset with part := .inReset, image := none, spiSelect := false }

/-- PIN_RESET_ASSERT (R182): every block at its value after pin reset, the time counter at 0, all work discarded. -/
def execPinResetAssert (_dt : Nat) (s : State) : Host.Outcome State Fault Refusal :=
  .next (((State.reset.setStl StoreLoader.inReset).setOutputs []).setPending s.pending)

/-- PIN_RESET_RELEASE (R182, R185): the time counter starts from 0, the part enters LOADING and begins the image read.
Outside reset RESETn is high already, and nothing happens. -/
def execPinResetRelease (dt : Nat) (s : State) : Host.Outcome State Fault Refusal :=
  .next (if s.stl.part = .inReset then State.reset.setPending s.pending else s.begin dt)

/-! ### The entry to READY (R188) -/

/-- STL in READY: the read transaction has ended (R185). -/
def StoreLoader.finish (l : StoreLoader) : StoreLoader := { l with part := .ready, image := none, spiSelect := false }

/-- The entry to READY (R188). The line receiver begins with the next start bit (R20, R188 (4)), so a character can end
10 bit times from now at the earliest. -/
def State.enterReady (s : State) : State :=
  let s1 := (s.setStl s.stl.finish).latchIf s.stl.storeFault .storeFault
  ((s1.setEvu s1.evu.drive).setLineWait s.stl.lineRate.character).presentReport

/-! ### The image (R185 to R187) -/

/-- The line rate that a header field names. -/
def rateOf : Nat → LineRate
  | 0 => .baud250k
  | 1 => .baud500k
  | 2 => .baud1M
  | _ => .baud2M

/-- The record count of a header (Table 11.1). -/
def headerCount (d : BeatData) : Nat := byteOf (wordOf d 1) 0

/-- The line rate field of a header (Table 11.1). -/
def headerRate (d : BeatData) : Nat := byteOf (wordOf d 1) 1

/-- The control window base of a header, bits 0 to 11 cleared (Table 11.1, R186). -/
def headerBase (d : BeatData) : Nat := baseOf (wordOf d 2) (wordOf d 3) / 4096 * 4096

/-- The header is good (R186). -/
def headerGood (d : BeatData) : Bool :=
  decide (wordOf d 0 = 0x31434A55) && checkSumOk d && decide (headerCount d ≤ 7) && decide (headerRate d ≤ 3)

/-- A good header sets the control window and the line rate, and STL reads on (R185, R186). -/
def State.goodHeader (s : State) (d : BeatData) : State :=
  let s1 :=
    (s.setPb { s.pb with controlBase := headerBase d }).setStl
      { s.stl with lineRate := rateOf (headerRate d), image := some (.records (headerCount d) 0) }
  if headerCount d = 0 then s1.enterReady else s1

/-- A bad header: the built-in base and rate, the store fault mark, and the entry to READY (R185, R186). -/
def State.badHeader (s : State) : State :=
  ((s.setPb { s.pb with controlBase := 0xFFFFFFF000 }).setStl
    { s.stl with lineRate := .baud1M, storeFault := true }).enterReady

/-- IMAGE_HEADER (R186): effective in LOADING while the header is awaited. -/
def execImageHeader (dt : Nat) (d : BeatData) (s : State) : Host.Outcome State Fault Refusal :=
  let s1 := s.begin dt
  .next
    (if s1.stl.part = .loading ∧ s1.stl.image = some .header then
      (if headerGood d then s1.goodHeader d else s1.badHeader).settle
    else s1)

/-- A record that ends the image: a RESET of scope ALL that is taken (R187 (6)). -/
def endsImage (d : BeatData) : Bool :=
  (slotReason ⟨d, true⟩).isNone && decide (kindOf d = 14) && decide (targetOf d = 0)

/-- STL after record number `read` of `count` (R187): a rejected one sets the store fault mark. -/
def StoreLoader.readOne (l : StoreLoader) (count read : Nat) (d : BeatData) : StoreLoader :=
  { l with
    image := some (.records count (read + 1))
    storeFault := l.storeFault || (slotReason ⟨d, true⟩).isSome }

/-- An image record is examined, and the image ends after the last one (R185, R187). -/
def State.imageRecord (s : State) (count read : Nat) (d : BeatData) : State :=
  let s1 := s.examineSlot ⟨d, true⟩
  let s2 := s1.setStl (s1.stl.readOne count read d)
  if endsImage d ∨ count ≤ read + 1 then s2.enterReady else s2

/-- The counts of the image read so far, where the part is LOADING and reads records. -/
def StoreLoader.reading (l : StoreLoader) : Option (Nat × Nat) :=
  match l.part, l.image with
  | .loading, some (.records count read) => some (count, read)
  | _, _ => none

/-- IMAGE_RECORD (R187): effective in LOADING while records are read. -/
def execImageRecord (dt : Nat) (d : BeatData) (s : State) : Host.Outcome State Fault Refusal :=
  let s1 := s.begin dt
  .next (match s1.stl.reading with
    | some (count, read) => (s1.imageRecord count read d).settle
    | none => s1)

end Sys2Proof.Machine
end

