-- ==== Sys2Proof/Machine/Upstream.lean ====
section
/-! DEFINITION. The commands of the two ports' upstream traffic: UPSTREAM_WRITE, HELD_WRITE_REOFFERED, UPSTREAM_READ,
MEMORY_READ_DATA, ANSWER_BEAT_RETURNED. A command that its rule does not enable lets its time pass and changes nothing
else (assumption log 12). -/

namespace Sys2Proof.Machine

/-- A write is presented behind those that wait. -/
def State.presentWrite (s : State) (w : UpWrite) : State := s.setPb { s.pb with channel := s.pb.channel ++ [w] }

/-- The pipeline port is out of reset (R182). -/
def State.portOpen (s : State) : Bool := decide (s.stl.part ≠ .inReset)

/-- UPSTREAM_WRITE (R1, R8 to R11). -/
def execUpstreamWrite (dt : Nat) (w : UpWrite) (s : State) : Host.Outcome State Fault Refusal :=
  let s1 := s.begin dt
  .next (if s1.portOpen then (s1.presentWrite w).offerHead.settle else s1)

/-- HELD_WRITE_REOFFERED (R11). -/
def execHeldWriteReoffered (dt : Nat) (s : State) : Host.Outcome State Fault Refusal :=
  .next (s.begin dt).offerHead.settle

/-- UPSTREAM_READ (R2, R14, R15). -/
def execUpstreamRead (dt : Nat) (r : UpRead) (s : State) : Host.Outcome State Fault Refusal :=
  let s1 := s.begin dt
  .next (if s1.takesReads then s1.takeRead r else s1)

/-- A beat comes back from the memory side for a read under `tag` (R2); a beat under a tag that has no forwarded read
out is discarded. -/
def State.readBeatBack (s : State) (tag : Nat) (data : BeatData) (resp : Resp) : State :=
  let r := returnForwarded tag s.pb.reads
  if r.2 then (s.setPb { s.pb with reads := r.1 }).emit (.readBeat tag data resp) else s

/-- MEMORY_READ_DATA (R2). -/
def execMemoryReadData (dt tag : Nat) (data : BeatData) (resp : Resp) (s : State) :
    Host.Outcome State Fault Refusal :=
  let s1 := s.begin dt
  .next (if s1.portOpen then s1.readBeatBack tag data resp else s1)

/-- A beat of the answer under `tag` is returned with response OKAY, and reads that waited for its last beat are
released (R16, R18). -/
def State.answerBeatBack (s : State) (tag : Nat) : State :=
  let r := returnAnswer tag s.pb.reads
  match r.2 with
  | none => s
  | some b => ((s.setPb { s.pb with reads := r.1 }).emit (.readBeat tag b .okay)).releaseReads

/-- ANSWER_BEAT_RETURNED (R16, R18). -/
def execAnswerBeatReturned (dt tag : Nat) (s : State) : Host.Outcome State Fault Refusal :=
  .next ((s.begin dt).answerBeatBack tag)

end Sys2Proof.Machine
end

