-- ==== Sys2Proof/Machine/Dispatch.lean ====
section
/-! DEFINITION. One arm per command, each one call of the command's meaning. -/

namespace Sys2Proof.Machine

/-- The command's effect on everything but the queue. -/
def exec (i : Instr) (s : State) : Host.Outcome State Fault Refusal :=
  match i with
  | .upstreamWrite dt w => Sys2Proof.Machine.execUpstreamWrite dt w s
  | .heldWriteReoffered dt => Sys2Proof.Machine.execHeldWriteReoffered dt s
  | .upstreamRead dt r => Sys2Proof.Machine.execUpstreamRead dt r s
  | .memoryReadData dt tag data resp => Sys2Proof.Machine.execMemoryReadData dt tag data resp s
  | .answerBeatReturned dt tag => Sys2Proof.Machine.execAnswerBeatReturned dt tag s
  | .lplCharacter dt b framingError => Sys2Proof.Machine.execLplCharacter dt b framingError s
  | .assemblyGapTimeout dt => Sys2Proof.Machine.execAssemblyGapTimeout dt s
  | .timingWindowExpiry dt => Sys2Proof.Machine.execTimingWindowExpiry dt s
  | .deferralWaitOut dt => Sys2Proof.Machine.execDeferralWaitOut dt s
  | .frameMark dt => Sys2Proof.Machine.execFrameMark dt s
  | .burstIssued dt => Sys2Proof.Machine.execBurstIssued dt s
  | .preemptionSuspend dt => Sys2Proof.Machine.execPreemptionSuspend dt s
  | .memoryWriteResponse dt tag resp => Sys2Proof.Machine.execMemoryWriteResponse dt tag resp s
  | .stallTimeout dt c => Sys2Proof.Machine.execStallTimeout dt c s
  | .attnGapEnd dt => Sys2Proof.Machine.execAttnGapEnd dt s
  | .shot dt p => Sys2Proof.Machine.execShot dt p s
  | .contextGeometry dt c p => Sys2Proof.Machine.execContextGeometry dt c p s
  | .contextOptics dt c p => Sys2Proof.Machine.execContextOptics dt c p s
  | .lineMemory dt p => Sys2Proof.Machine.execLineMemory dt p s
  | .tracking dt p => Sys2Proof.Machine.execTracking dt p s
  | .motion dt p => Sys2Proof.Machine.execMotion dt p s
  | .profileWindow dt p => Sys2Proof.Machine.execProfileWindow dt p s
  | .profileCommit dt => Sys2Proof.Machine.execProfileCommit dt s
  | .eventAck dt p => Sys2Proof.Machine.execEventAck dt p s
  | .eventMask dt p => Sys2Proof.Machine.execEventMask dt p s
  | .reportRing dt p => Sys2Proof.Machine.execReportRing dt p s
  | .arbiter dt p => Sys2Proof.Machine.execArbiter dt p s
  | .statusRequest dt => Sys2Proof.Machine.execStatusRequest dt s
  | .resetAll dt => Sys2Proof.Machine.execResetAll dt s
  | .resetContext dt c => Sys2Proof.Machine.execResetContext dt c s
  | .resetTracking dt => Sys2Proof.Machine.execResetTracking dt s
  | .resetProfiles dt => Sys2Proof.Machine.execResetProfiles dt s
  | .recordRejected dt slot => Sys2Proof.Machine.execRecordRejected dt slot s
  | .resetAllTakesEffect dt => Sys2Proof.Machine.execResetAllTakesEffect dt s
  | .pinResetAssert dt => Sys2Proof.Machine.execPinResetAssert dt s
  | .pinResetRelease dt => Sys2Proof.Machine.execPinResetRelease dt s
  | .imageHeader dt bytes => Sys2Proof.Machine.execImageHeader dt bytes s
  | .imageRecord dt bytes => Sys2Proof.Machine.execImageRecord dt bytes s
  | .burstBegun dt => Sys2Proof.Machine.execBurstBegun dt s

end Sys2Proof.Machine
end

