-- ==== Sys2Proof/Safety.lean ====
section
/-! DEFINITION. What counts as a safe state and a safe run, and the words of the statements: which blocks a command
changes, and the invariants. -/

namespace Sys2Proof.Machine

/-! ### What a command changes -/

/-- A context without its stall timer. -/
def Context.unstalled (c : Context) : Context := c.mapFrame fun f => { f with stall := none }

/-- The stall timer of a context's frame. -/
def Context.stallTimer (c : Context) : Option Time := c.frame.bind fun f => f.stall

/-- The arbiter without who owns the channel, the grant list and the latency timer. -/
def Arbiter.ungranted (a : Arbiter) : Arbiter := { a with owner := none, begun := false, grants := [], timer := none }

/-- Who owns the channel, whether its next burst has begun, the grant list and the latency timer. -/
def Arbiter.grantState (a : Arbiter) : Option Requester × Bool × List Requester × Option Nat :=
  (a.owner, a.begun, a.grants, a.timer)

/-- The blocks of the state. A context's stall timer counts apart from the context, and the arbiter's grant state apart
from its runs, issued lists and settings: the end of a command lets both follow (R149, R156, R158). `line` is the wait for
the first character after the entry to READY (log 20). -/
inductive Block where
  | time
  | stl
  | pb
  | llr
  | pmon
  | ptrk
  | fest
  | mept
  | psto
  | bpln
  | lmem
  | ctx0
  | ctx1
  | stall0
  | stall1
  | warb
  | grant
  | crec
  | evu
  | rpw
  | line
  | outputs
  | pending
  deriving DecidableEq, Repr

/-- Block `b` is the same in two states. -/
def State.sameIn (s t : State) : Block → Prop
  | .time => t.time = s.time
  | .stl => t.stl = s.stl
  | .pb => t.pb = s.pb
  | .llr => t.llr = s.llr
  | .pmon => t.pmon = s.pmon
  | .ptrk => t.ptrk = s.ptrk
  | .fest => t.fest = s.fest
  | .mept => t.mept = s.mept
  | .psto => t.psto = s.psto
  | .bpln => t.bpln = s.bpln
  | .lmem => t.lmem = s.lmem
  | .ctx0 => t.ctxs.ctx0.unstalled = s.ctxs.ctx0.unstalled
  | .ctx1 => t.ctxs.ctx1.unstalled = s.ctxs.ctx1.unstalled
  | .stall0 => t.ctxs.ctx0.stallTimer = s.ctxs.ctx0.stallTimer
  | .stall1 => t.ctxs.ctx1.stallTimer = s.ctxs.ctx1.stallTimer
  | .warb => t.warb.ungranted = s.warb.ungranted
  | .grant => t.warb.grantState = s.warb.grantState
  | .crec => t.crec = s.crec
  | .evu => t.evu = s.evu
  | .rpw => t.rpw = s.rpw
  | .line => t.lineWait = s.lineWait
  | .outputs => t.outputs = s.outputs
  | .pending => t.pending = s.pending

/-- `t` differs from `s` in the blocks `bs` at most. -/
def State.changesOnly (s t : State) (bs : List Block) : Prop := ∀ b, b ∉ bs → s.sameIn t b

/-- The block of a context. -/
def blockOf : Ctx → Block
  | .ctx0 => .ctx0
  | .ctx1 => .ctx1

/-- The block of a context's stall timer. -/
def stallOf : Ctx → Block
  | .ctx0 => .stall0
  | .ctx1 => .stall1

/-- What the end of a command lets follow: the stall timers and the grant state (R149, R156, R158). -/
def settleBlocks : List Block := [.stall0, .stall1, .grant]

/-! ### What settings leave when they take effect -/

/-- The mode in effect of a mode at a depth (the table of R133). -/
def fallbackTable (m : Mode) (depth : Nat) : Mode :=
  if m = .transparent ∨ depth < 2 then .transparent else if depth < 4 then .shadeOnly else m

/-- What the settings now in force have left of context `c` in `t`, when they took effect on `s` (R132): the extent of the
window, z being the number of one-bits of its mask from bit 0 up (R4); the height, clamped where its rows exceed the window
(R7); the depth (R130); the mode in effect, and DEPTH_LIMIT where it is a fallback (R133); the state; and on leaving OFF the
consumed flags of the entries held (R62). -/
def State.tookEffect (s t : State) (c : Ctx) : Prop :=
  ((t.ctx c).settings.window = none → (t.ctx c).extent = none) ∧
    (∀ (base : Nat) (mask : Word) (z : Nat), (t.ctx c).settings.window = some (base, mask) →
      (∀ i, i < z → mask.getLsbD i = true) → mask.getLsbD z = false →
      (t.ctx c).extent = some ⟨base / 2 ^ max 12 z * 2 ^ max 12 z, 2 ^ max 12 z⟩) ∧
    ((t.ctx c).extent = none → (t.ctx c).height = (t.ctx c).settings.height) ∧
    (∀ x, (t.ctx c).extent = some x →
      (t.ctx c).height =
        if x.size < (t.ctx c).settings.height * (t.ctx c).settings.stride then x.size / (t.ctx c).settings.stride
        else (t.ctx c).settings.height) ∧
    (t.ctx c).depth =
      min 128 ((match c with
        | .ctx0 => t.lmem.share0
        | .ctx1 => 262144 - t.lmem.share0) / (t.ctx c).settings.width) ∧
    (t.ctx c).mode = fallbackTable (t.ctx c).settings.mode (t.ctx c).depth ∧
    ((t.ctx c).mode ≠ (t.ctx c).settings.mode → t.evu.set.getLsbD 9 = true) ∧
    (t.ctx c).state = (if (t.ctx c).settings.mode = .transparent then .off else .idle) ∧
    ((s.ctx c).state = .off → (t.ctx c).settings.mode ≠ .transparent → ∀ e ∈ t.mept.entries, e.consumed.get c = true)

/-! ### Reads and entries -/

/-- The first region, in the order of R6, that holds address `a` is frame window `c`. -/
def State.firstInWindow (s : State) (c : Ctx) (a : Nat) : Prop :=
  ¬(s.rpw.base ≤ a ∧ a < s.rpw.base + 256 * s.rpw.slots) ∧ ¬(s.pb.controlBase ≤ a ∧ a < s.pb.controlBase + 4096) ∧
    (∀ b, s.pb.profileBase = some b → ¬(b ≤ a ∧ a < b + 4096)) ∧
    (c = .ctx1 → ∀ x, (s.ctx .ctx0).extent = some x → ¬(x.base ≤ a ∧ a < x.base + x.size)) ∧
    ∃ x, (s.ctx c).extent = some x ∧ x.base ≤ a ∧ a < x.base + x.size

/-- Row `y` has been retired by the frame in progress (R144): emitted, or drained, and its last response has come. -/
def Frame.hasRetired (f : Frame) (y : Nat) : Prop := (y < f.e ∨ f.rawFrom ≤ y ∧ y < f.rawTo) ∧ y ∉ f.unretired

/-- A read is given disposition `d` (R14, R19). In READY, a read whose first byte falls in the frame window of a context not
OFF, and that touches rows of its frame area, is answered in GAIN_VIEW; in NORMAL it is forwarded, and waits on the touched
rows that the frame in progress has not retired. Every other read is forwarded and waits on nothing. -/
def State.gives (s : State) (r : UpRead) (d : Disposition) : Prop :=
  (∀ (c : Ctx) (f : FrameArea), s.stl.part = .ready → s.firstInWindow c r.first → (s.ctx c).state ≠ .off →
    (s.ctx c).area = some f → f.rowsTouched r.first r.last ≠ [] →
    ((s.ctx c).settings.view = .gainView → d = ⟨.answer c, [], none⟩) ∧
    ((s.ctx c).settings.view = .normal →
      d.fate = .forward ∧ d.on = (if d.rows = [] then none else some c) ∧
      ∀ y, y ∈ d.rows ↔
        y ∈ f.rowsTouched r.first r.last ∧ ∃ g, (s.ctx c).frame = some g ∧ ¬g.hasRetired y)) ∧
  ((s.stl.part ≠ .ready ∨ ∀ c, s.firstInWindow c r.first → (s.ctx c).state = .off ∨ (s.ctx c).area = none ∨
      ∃ f, (s.ctx c).area = some f ∧ f.rowsTouched r.first r.last = []) →
    d = ⟨.forward, [], none⟩)

/-- `beats` answers a read of context `c` (R18, R127): as many beats as the read asks for, four pixels to a beat; 0 outside the
frame area; unity gain, 16384 in R, G and B, where the mode in effect is TRANSPARENT or no band is planned; else the gain of the
newest planned band record under the geometry derived from it. -/
def State.answeredBy (s : State) (c : Ctx) (r : UpRead) (beats : List BeatData) : Prop :=
  beats.length = r.len ∧ ∀ (i j a : Nat) (b : BeatData), beats[i]? = some b → j < 4 →
    a = r.first / 32 * 32 + 32 * i + 8 * j →
    ((∀ f, (s.ctx c).area = some f →
        a < f.base ∨ f.height ≤ (a - f.base) / f.stride ∨ 8 * f.width ≤ (a - f.base) % f.stride) →
      b.extractLsb' (64 * j) 64 = 0) ∧
    ∀ f, (s.ctx c).area = some f → f.base ≤ a → (a - f.base) / f.stride < f.height →
      (a - f.base) % f.stride < 8 * f.width →
      ((s.ctx c).mode = .transparent ∨ s.mept.newestPlanned = none →
        b.extractLsb' (64 * j) 64 = 0x0000400040004000) ∧
      ∀ e x, (s.ctx c).mode ≠ .transparent → s.mept.newestPlanned = some (e, x) →
        b.extractLsb' (64 * j) 64 =
          gainPixel (deriveGeometry (s.ctx c) e.id x) x ((a - f.base) % f.stride / 8) ((a - f.base) / f.stride)

/-- An entry stays in the table (R66): a context that is not OFF has not consumed it, or a context has it in use. -/
def State.awaits (s : State) (e : EpochEntry) : Bool :=
  (decide ((s.ctx .ctx0).state ≠ .off) && !e.consumed.ctx0) || (decide ((s.ctx .ctx1).state ≠ .off) && !e.consumed.ctx1) ||
    e.inUse.ctx0 || e.inUse.ctx1

/-! ### The kinds of records -/

/-- Table 10.2: the command of a record's kind and target with parameter words `p`, and the effect of that kind; none where
no record has that kind and target. -/
def recordTable (dt : Nat) (p : Params) : Nat → Nat → Option (Instr × (State → State))
  | 1, 0 => some (.shot dt p, fun u => u.recordShot p)
  | 2, 0 => some (.contextGeometry dt .ctx0 p, fun u => u.recordGeometry .ctx0 p)
  | 2, 1 => some (.contextGeometry dt .ctx1 p, fun u => u.recordGeometry .ctx1 p)
  | 3, 0 => some (.contextOptics dt .ctx0 p, fun u => u.recordOptics .ctx0 p)
  | 3, 1 => some (.contextOptics dt .ctx1 p, fun u => u.recordOptics .ctx1 p)
  | 4, 0 => some (.lineMemory dt p, fun u => u.recordLineMemory p)
  | 5, 0 => some (.tracking dt p, fun u => u.track p)
  | 6, 0 => some (.motion dt p, fun u => u.recordMotion p)
  | 7, 0 => some (.profileWindow dt p, fun u => u.recordProfileWindow p)
  | 8, 0 => some (.profileCommit dt, fun u => u.commitProfile)
  | 9, 0 => some (.eventAck dt p, fun u => u.recordAck p)
  | 10, 0 => some (.eventMask dt p, fun u => u.recordMask p)
  | 11, 0 => some (.reportRing dt p, fun u => u.setRing p)
  | 12, 0 => some (.arbiter dt p, fun u => u.recordArbiter p)
  | 13, 0 => some (.statusRequest dt, fun u => u.recordStatus)
  | 14, 0 => some (.resetAll dt, fun u => u.recordResetAll)
  | 14, 1 => some (.resetContext dt .ctx0, fun u => u.recordResetContext .ctx0)
  | 14, 2 => some (.resetContext dt .ctx1, fun u => u.recordResetContext .ctx1)
  | 14, 3 => some (.resetTracking dt, fun u => u.resetTracking)
  | 14, 4 => some (.resetProfiles dt, fun u => u.recordResetProfiles)
  | _, _ => none

/-! ### The checks of a commit -/

/-- A staged profile passes a check of Table 5.2 (R80 to R85), read from the staging table's bytes at the offsets of Table
5.1 and from the coverage map. -/
def ProfileStore.meets (p : ProfileStore) : CommitReason → Prop
  | .pending => p.pendingSwap = false
  | .tag => p.stagingTable.read 0 = 0x55 ∧ p.stagingTable.read 1 = 0x4A ∧ p.stagingTable.read 2 = 0x50 ∧
      p.stagingTable.read 3 = 0x31
  | .length => 2 ≤ p.stagingTable.readLE 4 2 ∧ p.stagingTable.readLE 4 2 ≤ 128
  | .coverage => ∀ g, g < p.stagingTable.readLE 4 2 → p.coverage.getLsbD g = true
  | .check => ((List.range (8 * p.stagingTable.readLE 4 2)).map fun k => p.stagingTable.readLE (4 * k) 4).sum % 2 ^ 32 = 0
  | .counts =>
      2 ≤ (p.stagingTable.read 6).toNat ∧ (p.stagingTable.read 6).toNat ≤ 32 ∧ 1 ≤ (p.stagingTable.read 7).toNat ∧
        (p.stagingTable.read 7).toNat ≤ 4 ∧
        40 + 8 * (p.stagingTable.read 6).toNat + 18 * (p.stagingTable.read 6).toNat * (p.stagingTable.read 7).toNat ≤
          p.stagingTable.readLE 4 2 * 32
  | .order =>
      (∀ i, i + 1 < (p.stagingTable.read 6).toNat →
        p.stagingTable.readLE (40 + 8 * i) 2 < p.stagingTable.readLE (40 + 8 * (i + 1)) 2) ∧
        ∀ j, j + 1 < (p.stagingTable.read 7).toNat →
          p.stagingTable.readLE (32 + 2 * j) 2 < p.stagingTable.readLE (32 + 2 * (j + 1)) 2
  | .radius => p.stagingTable.readLE 20 2 ≠ 0 ∧ p.stagingTable.readLE 22 2 ≠ 0

/-- Check `r` is the first of Table 5.2 that a staged profile fails; `CommitReason.code` numbers the checks in the order of
the table. -/
def ProfileStore.failsFirst (p : ProfileStore) (r : CommitReason) : Prop :=
  (∀ q : CommitReason, q.code < r.code → p.meets q) ∧ ¬p.meets r

/-! ### The slots of a burst -/

/-- What examining slot `x` in state `u` leaves in `v` (R165 to R167, R169): nothing once a RESET ALL record is pending; a
rejected slot counted under its reason, with CONTROL_FAULT at the limit; a taken one counted, with the effect of its kind. The
stall timers and the grant state may follow before the next slot (log 16). -/
def State.examined (x : Slot) (u v : State) : Prop :=
  if u.stl.pendingReset then v = u
  else match slotReason x with
    | some r =>
      v.crec = { u.crec with
        rejected := u.crec.rejected + 1
        reason := r
        consec := if u.crec.limit ≤ u.crec.consec + 1 then 0 else u.crec.consec + 1 } ∧
      v.evu.set = (if u.crec.limit ≤ u.crec.consec + 1 then u.evu.set ||| 131072#19 else u.evu.set) ∧
      u.changesOnly v (.crec :: .evu :: settleBlocks)
    | none =>
      v.crec =
        { (recordEffect (kindOf x.data) (targetOf x.data) (paramsOf x.data) u).crec with
          taken := u.crec.taken + 1
          consec := 0 } ∧
      (recordEffect (kindOf x.data) (targetOf x.data) (paramsOf x.data) u).changesOnly v (.crec :: settleBlocks)

/-- Examining the slots of a burst in their order leads from `u` to `v`. -/
def State.examinedAll : List Slot → State → State → Prop
  | [], u, v => v = u
  | x :: xs, u, v => ∃ w, State.examined x u w ∧ State.examinedAll xs w v

/-! ### Invariants -/

/-- Both profile tables are in the canonical form of their memory. -/
def State.tablesWf (s : State) : Bool := s.psto.activeTable.wf && s.psto.stagingTable.wf

/-- The bounded lists are within the room the spec gives them: the position track (R40), the epoch table (R60), the
response queue (R12), the read hold queue (R15) and the report queue (section 10.3). -/
def State.withinRoom (s : State) : Prop :=
  s.ptrk.samples.length ≤ 16 ∧ s.mept.entries.length ≤ 4 ∧ s.pb.responses.length ≤ 32 ∧ s.pb.holds.length ≤ 8 ∧
    s.rpw.queue.length ≤ 2

/-- While ATTN is asserted, at least one unmasked event is latched, and outside READY the line is released (R173). -/
def State.attnBacked (s : State) : Prop :=
  (s.evu.line = .asserted → s.evu.set &&& s.evu.mask ≠ 0) ∧ (s.stl.part ≠ .ready → s.evu.line = .released)

/-- Each sample's time is strictly later than that of the sample before it (R40). -/
def risingTimes : List Sample → Bool
  | [] => true
  | [_] => true
  | a :: b :: rest => later b.t a.t && risingTimes (b :: rest)

/-- The position track stands in order of sample time (R40). -/
def State.trackRises (s : State) : Bool := risingTimes s.ptrk.samples

/-! ### Safe runs -/

/-- A command is safe in a state when it ends neither in a fault nor in a refusal. -/
def safeCommand (c : Instr) (s : State) : Prop := ∃ t, exec c s = .next t

/-- A run of `k` steps that ends neither in a fault nor in a refusal. -/
def safeRun : Nat → State → Prop
  | 0, _ => True
  | k + 1, s => ∃ t, step s = .next t ∧ safeRun k t

end Sys2Proof.Machine
end

