-- ==== Sys2Proof/WellFormed.lean ====
section
/-! DEFINITION. Which commands the ports and lines can carry. `exec` is total and does not consult this; it says
which operands the spec's ports have (section 1.1, Table 5.1 of the ports, section 9.4). -/

namespace Sys2Proof

/-- A write burst has 1 to 16 beats (section 1.1) and a size of at most 32 bytes. -/
def UpWrite.wf (w : UpWrite) : Bool :=
  decide (1 ≤ w.beats.length) && decide (w.beats.length ≤ 16) && decide (w.size ≤ 32)

/-- A read burst has a tag 0..15 and 1 to 16 beats of at most 32 bytes (section 1.1). -/
def UpRead.wf (r : UpRead) : Bool :=
  decide (r.tag < 16) && decide (1 ≤ r.len) && decide (r.len ≤ 16) && decide (r.size ≤ 32)

/-- The microseconds a command carries. -/
def Instr.dt : Instr → Nat
  | .upstreamWrite dt _ => dt
  | .heldWriteReoffered dt => dt
  | .upstreamRead dt _ => dt
  | .memoryReadData dt _ _ _ => dt
  | .answerBeatReturned dt _ => dt
  | .lplCharacter dt _ _ => dt
  | .assemblyGapTimeout dt => dt
  | .timingWindowExpiry dt => dt
  | .deferralWaitOut dt => dt
  | .frameMark dt => dt
  | .burstIssued dt => dt
  | .preemptionSuspend dt => dt
  | .memoryWriteResponse dt _ _ => dt
  | .stallTimeout dt _ => dt
  | .attnGapEnd dt => dt
  | .shot dt _ => dt
  | .contextGeometry dt _ _ => dt
  | .contextOptics dt _ _ => dt
  | .lineMemory dt _ => dt
  | .tracking dt _ => dt
  | .motion dt _ => dt
  | .profileWindow dt _ => dt
  | .profileCommit dt => dt
  | .eventAck dt _ => dt
  | .eventMask dt _ => dt
  | .reportRing dt _ => dt
  | .arbiter dt _ => dt
  | .statusRequest dt => dt
  | .resetAll dt => dt
  | .resetContext dt _ => dt
  | .resetTracking dt => dt
  | .resetProfiles dt => dt
  | .recordRejected dt _ => dt
  | .resetAllTakesEffect dt => dt
  | .pinResetAssert dt => dt
  | .pinResetRelease dt => dt
  | .imageHeader dt _ => dt
  | .imageRecord dt _ => dt
  | .burstBegun dt => dt

/-- The operands are ones the ports can carry, and less than half the counter's range passes between two commands,
so that signed differences keep their order (section 4.2). -/
def Instr.wf (i : Instr) : Bool :=
  decide (i.dt < 2 ^ 31) &&
    match i with
    | .upstreamWrite _ w => w.wf
    | .upstreamRead _ r => r.wf
    | .memoryReadData _ tag _ _ => decide (tag < 16)
    | .answerBeatReturned _ tag => decide (tag < 16)
    | .memoryWriteResponse _ tag _ => decide (tag < 4)
    | _ => true

end Sys2Proof
end

