-- ==== Sys2Proof/Certificates/Slice0/Obligations.lean ====
section
/-! DEFINITION. The statements for the provers, by the chapters of spec/. "Completes" means that `exec` answers a next
state with the command's own effect. `s.changesOnly t bs` is the frame: `t` differs from `s` in the blocks `bs` at most. -/

open Sys2Proof Sys2Proof.Machine

/-! ### The queue -/

/-- The command at the front of the queue is run on the state with the queue's rest; on an empty queue the block idles
for one microsecond (log 1). -/
def Obligations.StepRunsFrontCommandOrIdles : Prop :=
  (∀ (c : Instr) (rest : List Instr) (s : State), s.pending = c :: rest → step s = exec c (s.setPending rest)) ∧
    ∀ s : State, s.pending = [] →
      ∃ t, step s = .next t ∧ t.time = (if s.stl.part = .inReset then s.time else s.time + 1) ∧
        t.lineWait = (if s.stl.part = .inReset then s.lineWait else s.lineWait - 1) ∧ t.outputs = [] ∧
        s.changesOnly t [.time, .line, .outputs]

/-- No command changes the queue, and each carries its microseconds: outside reset the counter advances by them, in reset
it stands, but for the two resets and the release, which set it (R58, R182, R184). The interval a command carries is the
model's (log 1). -/
def Obligations.CommandsLeaveTheQueueAndPassTime : Prop :=
  ∀ (c : Instr) (s t : State), exec c s = .next t →
    t.pending = s.pending ∧
      ((∀ dt, c ≠ .pinResetAssert dt) → (∀ dt, c ≠ .pinResetRelease dt) → (∀ dt, c ≠ .resetAllTakesEffect dt) →
        t.time = if s.stl.part = .inReset then s.time else s.time + BitVec.ofNat 32 c.dt)

/-! ### Reset and invariants -/

/-- The values the chapters give after reset; the reset state is the part as RESETn rises (log 15). (R39, R43, R57, R72, R92, R113, R152, Tables 9.1 and 9.2, R170, R174, R180,
R182, R185). -/
def Obligations.ResetLeavesTheChaptersValues : Prop :=
  State.reset.time = 0 ∧ State.reset.stl.part = .loading ∧ State.reset.stl.pendingReset = false ∧
    State.reset.stl.image = some .header ∧ State.reset.stl.storeFault = false ∧ State.reset.stl.spiSelect = true ∧
    State.reset.pb.controlBase = 0xFFFFFFF000 ∧ State.reset.pb.profileBase = none ∧ State.reset.pb.responses = [] ∧
    State.reset.pb.holds = [] ∧ State.reset.llr.asm = .hunt ∧ State.reset.llr.prevSeq = none ∧
    State.reset.llr.consecBad = 0 ∧ State.reset.llr.good = 0 ∧ State.reset.llr.bad = 0 ∧ State.reset.llr.missed = 0 ∧
    State.reset.llr.latency = 150 ∧ State.reset.llr.badLimit = 8 ∧
    State.reset.pmon = ⟨.lost, none, none, 0, none, 0, 0, 0, 300, 5000, 4, 4096, 3⟩ ∧
    State.reset.ptrk = ⟨[], none⟩ ∧ State.reset.fest = ⟨.predict, 8000, 4000⟩ ∧ State.reset.mept.entries = [] ∧
    State.reset.mept.shot = ⟨2160, 947, 10000, 0, 16, 2000⟩ ∧ (∀ x, State.reset.psto.activeTable.read x = 0) ∧
    (∀ x, State.reset.psto.stagingTable.read x = 0) ∧ State.reset.psto.hasActive = false ∧
    State.reset.psto.pendingSwap = false ∧ State.reset.psto.coverage = 0 ∧ State.reset.psto.outcome = .none ∧
    State.reset.bpln.cursor = none ∧ State.reset.bpln.deferral = none ∧ State.reset.bpln.requests = ⟨none, none⟩ ∧
    State.reset.bpln.motion = ⟨none, none, 0⟩ ∧ State.reset.bpln.settings = ⟨2048, 128, 4096, 2, .hold⟩ ∧
    State.reset.lmem = ⟨196608, none⟩ ∧
    (∀ c, (State.reset.ctx c).state = .off ∧ (State.reset.ctx c).next = none ∧ (State.reset.ctx c).frame = none ∧
      (State.reset.ctx c).geo = none ∧ (State.reset.ctx c).stray = 0 ∧ (State.reset.ctx c).extent = none ∧
      (State.reset.ctx c).settings =
        ⟨none, 4096, 2160, 32768, 50000, .transparent, .normal, 0, 0, 4096, 2048, 2048, 2048⟩) ∧
    State.reset.warb = ⟨⟨3, 2, 2, 1⟩, true, 16, ⟨none, none, none, none⟩, none, false, [], none, ⟨[], [], [], []⟩, 0⟩ ∧
    State.reset.crec = ⟨0, 4, .none, 0, 0⟩ ∧ State.reset.evu = ⟨0, BitVec.allOnes 19, .released⟩ ∧
    State.reset.rpw.slots = 0 ∧ State.reset.rpw.nextSlot = 0 ∧ State.reset.rpw.nextSeq = 0 ∧
    State.reset.rpw.probeFirst = 0 ∧ State.reset.rpw.probeLast = 3 ∧ State.reset.rpw.queue = [] ∧
    State.reset.rpw.dropped = 0 ∧ State.reset.outputs = [.spiRead 0x03 0]

/-- The invariants of the next four statements hold at reset. -/
def Obligations.InvariantsHoldAtReset : Prop :=
  State.reset.tablesWf = true ∧ State.reset.withinRoom ∧ State.reset.attnBacked ∧ State.reset.trackRises = true

/-- Every step keeps both profile tables in the canonical form in which the MODEL holds a table of 4096 bytes (section 5.1):
offsets strictly rising and below 4096, no listed byte 0. The form is the model's own representation (log 8, DEDUCED); the
spec names no such form. -/
def Obligations.EveryStepKeepsTheTablesCanonical : Prop :=
  ∀ s t : State, s.tablesWf = true → step s = .next t → t.tablesWf = true

/-- Every step keeps the bounded lists within their room: 16 samples (R40), 4 entries (R60), 32 responses (R12), 8 held
reads (R15), 2 queued reports (section 10.3). -/
def Obligations.EveryStepKeepsTheListsWithinRoom : Prop :=
  ∀ s t : State, s.withinRoom → step s = .next t → t.withinRoom

/-- Every step keeps ATTN backed: while it is asserted an unmasked event is latched, and outside READY the line is
released (R173). -/
def Obligations.EveryStepKeepsAttnBacked : Prop :=
  ∀ s t : State, s.attnBacked → step s = .next t → t.attnBacked

/-- Every step keeps the position track in strictly rising order of sample time (R40, R41). -/
def Obligations.EveryStepKeepsTheTrackRising : Prop :=
  ∀ s t : State, s.trackRises = true → step s = .next t → t.trackRises = true

/-- Only the header and the resets set the control window's base and the line rate (section 11.3, R186). -/
def Obligations.OnlyHeaderAndResetsSetWindowAndRate : Prop :=
  ∀ (c : Instr) (s t : State), exec c s = .next t → (∀ dt d, c ≠ .imageHeader dt d) →
    (∀ dt, c ≠ .pinResetAssert dt) → (∀ dt, c ≠ .pinResetRelease dt) → (∀ dt, c ≠ .resetAllTakesEffect dt) →
    t.pb.controlBase = s.pb.controlBase ∧ t.stl.lineRate = s.stl.lineRate

/-- Whatever command brings the part to READY, the read transaction has ended, a marked store fault is latched, and ATTN
is asserted exactly if the set and the mask share a member (R188). The line receiver then waits 10 bit times, the time of
a character begun after the entry (R20, R188 (4); the wait is the model's own field, log 20). -/
def Obligations.EntryToReadyDrivesAttn : Prop :=
  ∀ (c : Instr) (s t : State), exec c s = .next t → s.stl.part ≠ .ready → t.stl.part = .ready →
    t.evu.line = (if t.evu.set &&& t.evu.mask ≠ 0 then .asserted else .released) ∧
      (t.stl.storeFault = true → t.evu.set.getLsbD 18 = true) ∧ t.stl.image = none ∧ t.stl.spiSelect = false ∧
      t.lineWait =
        (match t.stl.lineRate with
         | .baud250k => 40
         | .baud500k => 20
         | .baud1M => 10
         | .baud2M => 5)

/-! ### Traffic (chapter 1) -/

/-- UPSTREAM_WRITE completes on an empty channel with room: a write that passes joins the response queue as a waiting
pass entry, and is requested as PASS where no other pass write is (R1, R8, R12, R19). A write into the control window joins
the queue in the same way, and the slots it touches are then examined in increasing address order, each rejected and counted,
or taken and counted with the effect of its kind (`recordEffect`, which ImageRecordIsCountedAndTheImageEnds ties to Table
10.2), up to a RESET ALL record, after which none is examined (R9, R165 to R167, R169). That the stall timers and the grant follow between two slots is log 16 (DEDUCED). -/
def Obligations.PassedWriteJoinsTheResponseQueue : Prop :=
  ∀ (dt : Nat) (w : UpWrite) (s : State), s.stl.part ≠ .inReset → s.stl.pendingReset = false → s.pb.channel = [] →
    s.pb.responses.length < 32 →
    (s.route w = .pass →
      ∃ t, exec (.upstreamWrite dt w) s = .next t ∧
        t.pb = { s.pb with
          responses := s.pb.responses ++ [⟨.passed, w, false, none⟩]
          heldBy := none } ∧
        (s.warb.runs.pass = none → s.nextPass = none →
          t.warb.runs = { s.warb.runs with pass := some ⟨.passWrite w, [⟨w.addr.toNat, w.beats.length⟩], false⟩ }) ∧
        (s.warb.runs.pass ≠ none → t.warb.runs = s.warb.runs) ∧
        (s.begin dt).changesOnly t [.pb, .warb, .stall0, .stall1, .grant]) ∧
    (s.route w = .control →
      ∃ t u v, exec (.upstreamWrite dt w) s = .next t ∧
        u.pb = { s.pb with
          responses := s.pb.responses ++ [⟨.passed, w, false, none⟩]
          heldBy := none } ∧
        (s.begin dt).changesOnly u [.pb, .warb] ∧ State.examinedAll (w.slots s.pb.controlBase) u v ∧
        v.changesOnly t settleBlocks ∧ t.pb.responses = u.pb.responses)

/-- UPSTREAM_WRITE into the profile window: in OPEN every strobed byte of the burst below offset 4096 is copied into the
staging table at its offset, and every other byte of the table reads as before; a granule becomes covered when one beat of
the burst sets its 32 strobes, and no mark is removed; the active profile, the staging state and the last outcome are kept.
In PENDING the store is untouched and PROFILE_WRITE_IGNORED latches. The write passes in both (R10, R73, R74, R75). -/
def Obligations.ProfileWriteIsCopiedByStrobes : Prop :=
  ∀ (dt base : Nat) (w : UpWrite) (s : State), s.stl.part ≠ .inReset → s.stl.pendingReset = false →
    s.pb.channel = [] → s.pb.responses.length < 32 → s.route w = .profile base → base % 32 = 0 → base ≤ w.first →
    s.tablesWf = true →
    ∃ t, exec (.upstreamWrite dt w) s = .next t ∧
      t.pb.responses = s.pb.responses ++ [⟨.passed, w, false, none⟩] ∧ t.psto.activeTable = s.psto.activeTable ∧
      (s.psto.pendingSwap = true → t.psto = s.psto ∧ t.evu.set.getLsbD 14 = true) ∧
      (s.psto.pendingSwap = false → ∀ x : Nat,
        ((∀ (i k : Nat) (b : Beat), w.beats[i]? = some b → k < 32 → b.strb.getLsbD k = true →
            x = w.first / 32 * 32 + 32 * i + k - base → w.first ≤ w.first / 32 * 32 + 32 * i + k → 4096 ≤ x) →
          t.psto.stagingTable.read x = s.psto.stagingTable.read x) ∧
        ∀ (i k : Nat) (b : Beat), w.beats[i]? = some b → k < 32 → b.strb.getLsbD k = true →
          x = w.first / 32 * 32 + 32 * i + k - base → w.first ≤ w.first / 32 * 32 + 32 * i + k → x < 4096 →
          t.psto.stagingTable.read x = b.data.extractLsb' (8 * k) 8) ∧
      (s.psto.pendingSwap = false →
        t.psto.hasActive = s.psto.hasActive ∧ t.psto.pendingSwap = false ∧ t.psto.outcome = s.psto.outcome ∧
        ∀ g, g < 128 → (t.psto.coverage.getLsbD g = true ↔
          s.psto.coverage.getLsbD g = true ∨
            ∃ (i : Nat) (b : Beat), w.beats[i]? = some b ∧ b.strb = BitVec.allOnes 32 ∧ (i = 0 → w.first % 32 = 0) ∧
              w.first / 32 * 32 + 32 * i - base = 32 * g)) ∧
      (s.begin dt).changesOnly t [.pb, .psto, .evu, .warb, .stall0, .stall1, .grant]

/-- UPSTREAM_WRITE that starts a frame in IDLE: the frame binds the oldest entry the context has not consumed, sets its
consumed and in-use flags, the context is in its frame, and the write is answered OKAY as intercepted (R63, R135). The held
rows are the write's pixels in order, from row 0 up, and the expected next address follows the last of them; at a width that
Table 8.1 allows, a multiple of 4, every row below it is held whole (R137, R139, R140). -/
def Obligations.FrameStartBindsTheOldestUnconsumedEntry : Prop :=
  ∀ (dt : Nat) (c : Ctx) (a : FrameArea) (w : UpWrite) (e : EpochEntry) (s : State), s.stl.part = .ready →
    s.stl.pendingReset = false → s.pb.channel = [] → s.pb.responses = [] → s.route w = .offered c a →
    (s.ctx c).area = some a → (s.ctx c).state = .idle → (s.ctx c).mode ≠ .transparent → w.first = a.base →
    w.fullStrobes = true → a.covers w.first w.last = true → (a.rowsTouched w.first w.last).length ≤ 2 →
    s.mept.unconsumed c = some e →
    ∃ t f e', exec (.upstreamWrite dt w) s = .next t ∧
      ((t.ctx c).state = .running ∨ (t.ctx c).state = .finishing) ∧ (t.ctx c).frame = some f ∧ f.entry = e.id ∧
      f.e = 0 ∧ t.mept.find e.id = some e' ∧ e'.consumed.get c = true ∧ e'.inUse.get c = true ∧
      t.outputs = [.writeResponse w.tag .okay] ∧ t.pb = { s.pb with heldBy := none } ∧ f.low = 0 ∧
      f.held.flatten = w.beats.flatMap (fun b => beatPixels b.data) ∧
      ((s.ctx c).settings.width % 4 = 0 → 0 < (s.ctx c).settings.width →
        f.nextRow * (s.ctx c).settings.width + f.nextX = 4 * w.beats.length ∧ f.nextX < (s.ctx c).settings.width ∧
        ∀ (k : Nat) (row : List Pixel), k < f.nextRow → f.held[k]? = some row → row.length = (s.ctx c).settings.width) ∧
      (s.begin dt).changesOnly t
        [.outputs, .pb, .mept, .psto, .bpln, .ctx0, .ctx1, .warb, .evu, .stall0, .stall1, .grant]

/-- HELD_WRITE_REOFFERED completes: a head that now passes is taken as a pass write; in RUNNING an in-sequence head that fits
the depth is taken, its entry OKAY and its pixels held after those held before, and one that does not fit stays at the head;
a frame start that a context in FINISHING or ABORTING holds back stays too (R11, R140, R146). -/
def Obligations.ReofferedHeadIsTakenOrStaysHeld : Prop :=
  ∀ (dt : Nat) (w : UpWrite) (rest : List UpWrite) (s : State), s.stl.part ≠ .inReset →
    s.stl.pendingReset = false → s.pb.channel = w :: rest → s.pb.responses.length < 32 →
    (s.route w = .pass →
      ∃ t, exec (.heldWriteReoffered dt) s = .next t ∧
        t.pb = { s.pb with
          responses := s.pb.responses ++ [⟨.passed, w, false, none⟩]
          channel := rest
          heldBy := none } ∧
        (s.begin dt).changesOnly t [.pb, .warb, .stall0, .stall1, .grant]) ∧
    (∀ (c : Ctx) (a : FrameArea) (f : Frame), s.route w = .offered c a → (s.ctx c).state = .running →
      (s.ctx c).frame = some f → f.inSequence a w false = true →
      (f.fits (a.rowsTouched w.first w.last) (s.ctx c).depth = true →
        ∃ t, exec (.heldWriteReoffered dt) s = .next t ∧ t.pb.channel = rest ∧ t.pb.heldBy = none ∧
          t.pb.responses <:+ s.pb.responses ++ [⟨.intercepted, w, false, some .okay⟩] ∧
          (s.pb.responses = [] → t.outputs.getLast? = some (.writeResponse w.tag .okay)) ∧
          (f.low ≤ f.nextRow → ∀ g, (t.ctx c).frame = some g →
            g.held.flatten = f.held.flatten ++ w.beats.flatMap (fun b => beatPixels b.data)) ∧
          (s.begin dt).changesOnly t
            [.outputs, .pb, .mept, .psto, .bpln, .lmem, .ctx0, .ctx1, .warb, .evu, .rpw, .stall0, .stall1, .grant]) ∧
      (f.fits (a.rowsTouched w.first w.last) (s.ctx c).depth = false →
        ∃ t, exec (.heldWriteReoffered dt) s = .next t ∧ t.pb = { s.pb with heldBy := some c } ∧
          (s.begin dt).changesOnly t [.pb, .stall0, .stall1, .grant])) ∧
    ∀ (c : Ctx) (a : FrameArea), s.route w = .offered c a → w.first = a.base →
      ((s.ctx c).state = .finishing ∨ (s.ctx c).state = .aborting) →
      ∃ t, exec (.heldWriteReoffered dt) s = .next t ∧ t.pb = { s.pb with heldBy := some c } ∧
        (s.begin dt).changesOnly t [.pb, .stall0, .stall1, .grant]

/-- UPSTREAM_READ completes where the port takes reads. A read that touches rows of the frame area of a context not OFF is
answered in GAIN_VIEW, and in NORMAL waits on the touched rows that the frame in progress has not retired; every other read is
forwarded, and so is every read in LOADING (`State.gives`; R6, R14, R19). The read is held if it waits on a row or follows a
held read or an unfinished answer of its tag, else it is forwarded or answered (R2, R15); an answer carries the gain of every
frame-area pixel, and 0 elsewhere (`State.answeredBy`; R18, R127). The rows touched are those below the height with a byte of
the read among their W × 8 row bytes. -/
def Obligations.TakenReadIsHeldForwardedOrAnswered : Prop :=
  (∀ (dt : Nat) (r : UpRead) (s : State), s.stl.part ≠ .inReset → s.stl.pendingReset = false →
    s.pb.holds.length < 8 →
    ∃ t d, exec (.upstreamRead dt r) s = .next t ∧ (s.begin dt).changesOnly t [.outputs, .pb] ∧ s.gives r d ∧
      ((d.rows ≠ [] ∨ (∃ h ∈ s.pb.holds, h.read.tag = r.tag) ∨
          ∃ x ∈ s.pb.reads, x.tag = r.tag ∧ ∃ l, x.body = .answering l) →
        t.outputs = [] ∧ t.pb = { s.pb with holds := s.pb.holds ++ [⟨r, d.fate, d.on, d.rows⟩] }) ∧
      (d.rows = [] → (∀ h ∈ s.pb.holds, h.read.tag ≠ r.tag) →
        (∀ x ∈ s.pb.reads, x.tag = r.tag → ∀ l, x.body ≠ .answering l) →
        (d.fate = .forward →
          t.outputs = [.memRead r] ∧ t.pb = { s.pb with reads := s.pb.reads ++ [⟨r.tag, .forwarded r.len⟩] }) ∧
        ∀ c, d.fate = .answer c →
          t.outputs = [] ∧ ∃ beats, s.answeredBy c r beats ∧
            t.pb = { s.pb with reads := s.pb.reads ++ [⟨r.tag, .answering beats⟩] })) ∧
  ∀ (f : FrameArea) (first last y : Nat), 0 < f.width → 8 * f.width ≤ f.stride → f.base ≤ first →
    (y ∈ f.rowsTouched first last ↔ y < f.height ∧ ∃ k, first ≤ k ∧ k < last ∧ f.base + y * f.stride ≤ k ∧
      k < f.base + y * f.stride + 8 * f.width)

/-- MEMORY_READ_DATA completes: a beat for the oldest read of its tag, a forwarded one, is passed upstream under the same
tag with its response unchanged (R2). -/
def Obligations.ForwardedReadBeatPassesUpstream : Prop :=
  ∀ (dt tag n : Nat) (data : BeatData) (resp : Resp) (pre post : List ReadOut) (s : State), s.stl.part ≠ .inReset →
    s.pb.reads = pre ++ ⟨tag, .forwarded n⟩ :: post → (∀ x ∈ pre, x.tag ≠ tag) →
    ∃ t, exec (.memoryReadData dt tag data resp) s = .next t ∧ t.outputs = [.readBeat tag data resp] ∧
      t.pb = { s.pb with reads := pre ++ (if n ≤ 1 then post else ⟨tag, .forwarded (n - 1)⟩ :: post) } ∧
      (s.begin dt).changesOnly t [.outputs, .pb]

/-- ANSWER_BEAT_RETURNED completes: the next beat of the oldest read of its tag, an answered one, returns with OKAY, and
reads released by it come after (R16, R18). -/
def Obligations.AnswerBeatReturnsWithOkay : Prop :=
  ∀ (dt tag : Nat) (b : BeatData) (rest : List BeatData) (pre post : List ReadOut) (s : State),
    s.pb.reads = pre ++ ⟨tag, .answering (b :: rest)⟩ :: post → (∀ x ∈ pre, x.tag ≠ tag) →
    ∃ t more, exec (.answerBeatReturned dt tag) s = .next t ∧ t.outputs.head? = some (.readBeat tag b .okay) ∧
      t.pb.reads = pre ++ (if rest = [] then post else ⟨tag, .answering rest⟩ :: post) ++ more ∧
      t.pb.responses = s.pb.responses ∧ (s.begin dt).changesOnly t [.outputs, .pb]

/-! ### The lens line (chapter 2) -/

/-- LPL_CHARACTER completes: in HUNT only a 0xC5 without a framing error begins a telegram; in ASSEMBLE any value without
a framing error, and with no gap before it, is one more byte of a telegram of fewer than nine (R21). A character that ends
less than 10 bit times after the entry to READY began before it and is not taken (R20, R188 (4), log 20). -/
def Obligations.CharacterBeginsOrExtendsATelegram : Prop :=
  ∀ (dt : Nat) (b : Byte) (fe : Bool) (s : State), s.stl.part = .ready →
    (dt < s.lineWait → ∃ t, exec (.lplCharacter dt b fe) s = .next t ∧ (s.begin dt).changesOnly t []) ∧
    (s.lineWait ≤ dt → s.llr.asm = .hunt →
      ∃ t, exec (.lplCharacter dt b fe) s = .next t ∧
        t.llr = (if b = 0xC5 ∧ fe = false then
            { s.llr with asm := .assemble [b], lastEnd := s.time + BitVec.ofNat 32 dt } else s.llr) ∧
        (s.begin dt).changesOnly t [.llr, .stall0, .stall1, .grant]) ∧
    ∀ held, s.lineWait ≤ dt → s.llr.asm = .assemble held → held.length < 8 → (s.begin dt).gapBefore = false →
      fe = false →
      ∃ t, exec (.lplCharacter dt b fe) s = .next t ∧
        t.llr = { s.llr with asm := .assemble (held ++ [b]), lastEnd := s.time + BitVec.ofNat 32 dt } ∧
        (s.begin dt).changesOnly t [.llr, .stall0, .stall1, .grant]

/-- A bad telegram is counted, latches LINE_FAULT at the limit, and leaves the previous sequence count and the position
monitor alone (R24). -/
def Obligations.BadTelegramIsCounted : Prop :=
  ∀ (dt : Nat) (b : Byte) (held : List Byte) (s : State), s.stl.part = .ready → s.lineWait ≤ dt →
    s.llr.asm = .assemble held → held.length = 8 → (s.begin dt).gapBefore = false → ((held ++ [b]).map fun x => x.toNat).sum % 256 ≠ 0 →
    ∃ t, exec (.lplCharacter dt b false) s = .next t ∧
      t.llr = { s.llr with
        asm := .hunt
        bad := s.llr.bad + 1
        consecBad := if s.llr.badLimit ≤ s.llr.consecBad + 1 then 0 else s.llr.consecBad + 1 } ∧
      (s.llr.badLimit ≤ s.llr.consecBad + 1 → t.evu.set = s.evu.set ||| 32#19) ∧
      (s.llr.consecBad + 1 < s.llr.badLimit → t.evu = s.evu) ∧
      (s.begin dt).changesOnly t [.llr, .evu, .stall0, .stall1, .grant]

/-- A good position telegram is counted, ends a run of bad ones, adds (seq − previous − 1) mod 256 missed telegrams and
becomes the previous sequence count (R26); its arrival becomes the previous arrival time whatever becomes of its
candidate (R29). -/
def Obligations.GoodPositionTelegramIsCounted : Prop :=
  ∀ (dt : Nat) (b : Byte) (held : List Byte) (s : State), s.stl.part = .ready → s.lineWait ≤ dt →
    s.llr.asm = .assemble held → held.length = 8 → (s.begin dt).gapBefore = false → ((held ++ [b]).map fun x => x.toNat).sum % 256 = 0 →
    held[1]? = some 0x31 → (∀ p, s.llr.prevSeq = some p → p < 256) →
    ∃ t seq, exec (.lplCharacter dt b false) s = .next t ∧ held[2]? = some seq ∧
      t.llr = { s.llr with
        asm := .hunt
        good := s.llr.good + 1
        consecBad := 0
        missed := s.llr.missed +
          (match s.llr.prevSeq with
           | none => 0
           | some p => BitVec.ofInt 16 (((seq.toNat : Int) - p - 1) % 256))
        prevSeq := some seq.toNat } ∧
      t.pmon.prevArrival = some (s.time + BitVec.ofNat 32 dt) ∧
      (s.begin dt).changesOnly t
        [.llr, .pmon, .ptrk, .mept, .psto, .bpln, .ctx0, .ctx1, .warb, .evu, .stall0, .stall1, .grant]

/-- The monitor judges a candidate: an early one is dropped and counted, with its effect by state (R29); one that passes
every test in ACQUIRE or TRACK is inserted, restarts the timer, empties the run and counts toward TRACK (R33, R41). -/
def Obligations.EarlyIsDroppedAndGoodIsInserted : Prop :=
  ∀ (k : Candidate) (s : State),
    (s.pmon.isEarly k.arrival = true →
      (s.judge k).pmon = { s.pmon with
        prevArrival := some k.arrival
        early := s.pmon.early + 1
        timely := if s.pmon.pos = .acquire then 0 else s.pmon.timely } ∧
      (s.judge k).evu.set = (if s.pmon.pos = .track then s.evu.set ||| 4#19 else s.evu.set) ∧
      s.changesOnly (s.judge k) [.pmon, .evu]) ∧
    (s.pmon.isEarly k.arrival = false → s.pmon.pos ≠ .lost → s.ptrk.staleAt k.sample.t = false →
      s.ptrk.implausibleAt k.sample.focus s.pmon.jump = false →
      (s.judge k).ptrk = ⟨s.ptrk.samples.drop (s.ptrk.samples.length - 15) ++ [k.sample], some k.sample.iris⟩ ∧
      (s.judge k).pmon = { s.pmon with
        prevArrival := some k.arrival
        timer := some s.time
        run := none
        timely := if s.pmon.pos = .acquire then s.pmon.timely + 1 else s.pmon.timely
        pos := if s.pmon.pos = .acquire ∧ s.pmon.timely + 1 < s.pmon.recover then .acquire else .track } ∧
      (s.pmon.pos = .acquire → s.pmon.recover ≤ s.pmon.timely + 1 → (s.judge k).evu.set.getLsbD 0 = true))

/-- ASSEMBLY_GAP_TIMEOUT completes: 30 bit times after the last held byte the telegram is abandoned; nothing is counted
(R22 (2)). -/
def Obligations.GapAbandonsTheTelegram : Prop :=
  ∀ (dt : Nat) (held : List Byte) (s : State), s.stl.part = .ready → s.llr.asm = .assemble held →
    (match s.stl.lineRate with
     | .baud250k => 120
     | .baud500k => 60
     | .baud1M => 30
     | .baud2M => 15) ≤ elapsed s.llr.lastEnd (s.time + BitVec.ofNat 32 dt) →
    ∃ t, exec (.assemblyGapTimeout dt) s = .next t ∧ t.llr = { s.llr with asm := .hunt } ∧
      (s.begin dt).changesOnly t [.llr]

/-- TIMING_WINDOW_EXPIRY completes: the state becomes LOST, POS_LOST latches, the timer stops, the timely count is 0, the
run is empty and the track is kept (R35). -/
def Obligations.TimingWindowExpiryLosesTheTrack : Prop :=
  ∀ (dt : Nat) (t0 : Time) (s : State), s.stl.part ≠ .inReset → s.pmon.pos ≠ .lost → s.pmon.timer = some t0 →
    s.pmon.upper ≤ elapsed t0 (s.time + BitVec.ofNat 32 dt) →
    ∃ t, exec (.timingWindowExpiry dt) s = .next t ∧
      t.pmon = { s.pmon with pos := .lost, timer := none, timely := 0, run := none } ∧ t.evu.set.getLsbD 1 = true ∧
      t.ptrk = s.ptrk ∧
      (s.bpln.deferral = none → t.evu.set = s.evu.set ||| 2#19 ∧
        (s.begin dt).changesOnly t [.pmon, .evu, .stall0, .stall1, .grant]) ∧
      (s.begin dt).changesOnly t
        [.pmon, .mept, .psto, .bpln, .ctx0, .ctx1, .warb, .evu, .stall0, .stall1, .grant]

/-! ### The track, the estimator and the planner (chapters 3 and 6) -/

/-- An interpolated estimate lies between the foci of two neighbouring samples (R47): for a rising track and a time later
than its oldest and not later than its newest sample, PREDICT answers INTERPOLATED. -/
def Obligations.InterpolationLiesBetweenNeighbours : Prop :=
  ∀ (first : Sample) (rest : List Sample) (newest : Sample) (T : Time) (hx : Nat),
    risingTimes (first :: rest) = true → (first :: rest).getLast? = some newest → later T first.t = true →
    later T newest.t = false → (∀ x ∈ first :: rest, x.focus ≤ 65535) →
    (predict (first :: rest) T hx).kind = .interpolated ∧
      ∃ pre a b post, first :: rest = pre ++ a :: b :: post ∧ later T a.t = true ∧ later T b.t = false ∧
        min a.focus b.focus ≤ (predict (first :: rest) T hx).focus ∧
        (predict (first :: rest) T hx).focus ≤ max a.focus b.focus

/-- DEFERRAL_WAIT_OUT completes: the deferred band gets its record from the PREDICT rules over the track as it stands,
flagged DEFERRED and WAITED_OUT, and PLAN_WAITED_OUT latches (R52, R104, R110). -/
def Obligations.WaitedOutBandIsExtrapolated : Prop :=
  ∀ (dt : Nat) (d : Deferral) (e : EpochEntry) (s : State), s.stl.part ≠ .inReset → s.bpln.deferral = some d →
    s.mept.find d.entry = some e → d.band < e.slots.length →
    s.fest.waitLimit ≤ elapsed d.start (s.time + BitVec.ofNat 32 dt) →
    ∃ t r, exec (.deferralWaitOut dt) s = .next t ∧ t.mept.recordAt d.entry d.band = some r ∧ r.band = d.band ∧
      r.time = d.time ∧ r.deferred = true ∧ r.waitedOut = true ∧
      r.estimate = some (predict s.ptrk.samples d.time s.fest.horizon).focus ∧
      r.kind = (if s.psto.hasActive then .predicted else .noProfile) ∧ t.evu.set.getLsbD 8 = true ∧
      (s.begin dt).changesOnly t [.mept, .psto, .bpln, .ctx0, .ctx1, .warb, .evu, .stall0, .stall1, .grant]

/-- A band completed with no active profile is a NO_PROFILE record and leaves the motion state (R104). With one, the target
becomes the estimate where the two differ by more than the hysteresis, and is unchanged otherwise (R101); without an
estimate, outside TRACK, HOLD and NEUTRAL leave it and REST sets it to the rest position, and the kind is the loss action's
(R102). Then f_eff becomes the target where it lies within the slew, and moves by the slew toward it otherwise; the strength
goes to its goal in the same way by the strength step (R103); all enter the record. -/
def Obligations.BandCompletionMovesAtMostTheSlew : Prop :=
  ∀ (b : Nat) (tb : Time) (est : Option Estimate) (df wo : Bool) (s : State),
    (s.psto.hasActive = false →
      (s.planBand b tb est df wo).motion = s.bpln.motion ∧
      (s.planBand b tb est df wo).record =
        ⟨b, tb, .noProfile, df, wo, est.map (·.focus), s.bpln.motion.target, s.bpln.motion.feff, s.irisUsed,
          s.bpln.motion.strength, 65536, 0, 0, ⟨0, 0, 0⟩, ⟨0, 0, 0⟩, ⟨0, 0, 0⟩, none, none⟩) ∧
    (s.pmon.pos ≠ .track → ∀ e, s.askBand e b = s.finishBand e b (e.bandTime b) none false false) ∧
    ∀ f goal, s.psto.hasActive = true → s.bpln.motion.feff = some f →
      goal = (if est = none ∧ s.bpln.settings.loss = .neutral then 0 else s.bpln.settings.strengthGoal) →
      ∃ target f', (s.planBand b tb est df wo).motion.target = some target ∧
        (s.planBand b tb est df wo).motion.feff = some f' ∧
        (absDiff target f ≤ s.bpln.settings.slew → f' = target) ∧
        (s.bpln.settings.slew < absDiff target f →
          absDiff f' f = s.bpln.settings.slew ∧ absDiff target f' + s.bpln.settings.slew = absDiff target f) ∧
        (absDiff goal s.bpln.motion.strength ≤ s.bpln.settings.strengthStep →
          (s.planBand b tb est df wo).motion.strength = goal) ∧
        (s.bpln.settings.strengthStep < absDiff goal s.bpln.motion.strength →
          absDiff (s.planBand b tb est df wo).motion.strength s.bpln.motion.strength = s.bpln.settings.strengthStep ∧
          absDiff goal (s.planBand b tb est df wo).motion.strength + s.bpln.settings.strengthStep =
            absDiff goal s.bpln.motion.strength) ∧
        (s.planBand b tb est df wo).record.target = some target ∧ (s.planBand b tb est df wo).record.feff = some f' ∧
        (s.planBand b tb est df wo).record.strength = (s.planBand b tb est df wo).motion.strength ∧
        (s.planBand b tb est df wo).record.profileId = some s.psto.activeTable.profileId ∧
        (∀ x g, est = some x → s.bpln.motion.target = some g →
          (s.bpln.settings.hysteresis < absDiff x.focus g → target = x.focus) ∧
          (absDiff x.focus g ≤ s.bpln.settings.hysteresis → target = g)) ∧
        (∀ g, est = none → s.bpln.settings.loss = .hold ∨ s.bpln.settings.loss = .neutral →
          s.bpln.motion.target = some g → target = g) ∧
        (est = none → s.bpln.settings.loss = .rest → target = s.psto.activeTable.readLE 10 2) ∧
        (s.planBand b tb est df wo).record.estimate = est.map (fun x => x.focus) ∧
        (∀ x, est = some x → (s.planBand b tb est df wo).record.kind = x.kind) ∧
        (est = none → (s.planBand b tb est df wo).record.kind =
          (match s.bpln.settings.loss with
           | .hold => .lossHold
           | .rest => .lossRest
           | .neutral => .lossNeutral))

/-- FRAME_MARK completes in READY with a context not OFF and no request outstanding: the newest entry is marked, carries
the time of the edge and the shot snapshot, with every flag clear and every slot unplanned (R59, R60). On a full table the
oldest entry that neither context has in use leaves, with MARK_OVERRUN (R61). The other held entries stay before the new one,
in their order and with their records, but for one that meets the removal conditions (R66). -/
def Obligations.FrameMarkCreatesAMarkedEntry : Prop :=
  ∀ (dt : Nat) (s : State), s.stl.part = .ready →
    ((s.ctx .ctx0).state ≠ .off ∨ (s.ctx .ctx1).state ≠ .off) → s.bpln.requests = ⟨none, none⟩ →
    ∃ t kept, exec (.frameMark dt) s = .next t ∧
      t.mept.entries = kept ++
        [⟨s.mept.nextId, s.time + BitVec.ofNat 32 dt, true, s.mept.shot.snapshot, ⟨false, false⟩, ⟨false, false⟩,
          List.replicate s.mept.shot.nb none⟩] ∧
      t.mept.nextId = s.mept.nextId + 1 ∧ t.mept.shot = s.mept.shot ∧ kept.Sublist s.mept.entries ∧
      (s.mept.entries.length < 4 → kept = s.mept.entries.filter s.awaits ∧ t.evu = s.evu) ∧
      (4 ≤ s.mept.entries.length → t.evu.set.getLsbD 6 = true) ∧
      (∀ pre v post, 4 ≤ s.mept.entries.length → s.mept.entries = pre ++ v :: post →
        v.inUse = ⟨false, false⟩ → (∀ e ∈ pre, e.inUse ≠ ⟨false, false⟩) → kept = (pre ++ post).filter s.awaits) ∧
      (s.begin dt).changesOnly t [.mept, .bpln, .evu, .stall0, .stall1, .grant]

/-! ### Correction (chapter 7) -/

/-- The depth clamp keeps stage D within the line memory: under a derived geometry with a depth of at least 3, the source
of every output row lies within D − 3 rows of it (R118, R119). -/
def Obligations.DepthClampKeepsStageDWithinDepth : Prop :=
  ∀ (c : Context) (entry y : Nat) (r : BandRecord), 3 ≤ c.depth → y < c.height →
    |(deriveGeometry c entry r).ys64 y - 64 * (y : Int)| ≤ 64 * ((c.depth : Int) - 3)

/-! ### The write arbiter and the memory side (chapter 9) -/

/-- A free channel with a waiting requester is granted to a waiting requester of the highest priority, which moves to the
newest end of the grant list; among ties the last granted is followed in the cycle order, and the cycle's own order decides where none was granted (R156). -/
def Obligations.GrantGoesToTheHighestPriority : Prop :=
  ∀ a : Arbiter, a.owner = none → (∃ r, a.waiting r = true) →
    ∃ r, a.grant.owner = some r ∧ a.waiting r = true ∧ (∀ q, a.waiting q = true → a.prio.get q ≤ a.prio.get r) ∧
      a.grant.grants = r :: a.grants.filter (fun q => decide (q ≠ r)) ∧
      (∀ l, a.grants.find? (fun q => a.waiting q && decide (a.prio.get q = a.prio.get r)) = some l →
        (cycleAfter l).find? (fun q => a.waiting q && decide (a.prio.get q = a.prio.get r)) = some r) ∧
      (a.grants.find? (fun q => a.waiting q && decide (a.prio.get q = a.prio.get r)) = none →
        cycleOrder.find? (fun q => a.waiting q && decide (a.prio.get q = a.prio.get r)) = some r)

/-- BURST_ISSUED completes: the owner's next burst appears on the memory side under its requester's tag and joins the
newest end of its issued list (R155). Before the run's last burst the owner keeps the channel and the rest of its run. Each
burst issued while the latency timer runs adds 1 to its count (R158). At the last the run ends: its requester waits with a
fresh run at most, the timer is stopped, and the channel is granted to a waiting requester of the highest priority, if one
waits (R156, R157, R158 (1)); that this grant and timer are those made after the same requester has presented its next run is
log 16 (DEDUCED). An output row then advances e, joins the rows
not yet retired, and counts as corrected unless its record is NO_PROFILE; held rows leave at the lower end only, and after
the last output row every one below H leaves; a drained row joins the rows not yet retired; a pass write is marked issued
(R8, R142, R143, R147, R151). -/
def Obligations.IssuedBurstJoinsItsRequestersList : Prop :=
  ∀ (dt : Nat) (r : Requester) (run : Run) (b : BurstPlan) (rest : List BurstPlan) (s : State),
    s.warb.owner = some r → s.warb.runs.get r = some run → run.bursts = b :: rest → s.warb.suspensionDue = false →
    ∃ t, exec (.burstIssued dt) s = .next t ∧
      t.outputs = [(s.begin dt).burstOutput r run.bursts.length b run.body] ∧
      t.warb.issued.get r = s.warb.issued.get r ++ [⟨run.body.rowNumber, decide (rest = [])⟩] ∧
      t.warb.begun = false ∧
      (rest ≠ [] → t.warb.runs.get r = some ⟨run.body, rest, true⟩ ∧ t.warb.owner = some r ∧
        (∀ n, s.warb.timer = some n → s.warb.preempt = true →
          (∃ q, s.warb.waiting q = true ∧ s.warb.prio.get r < s.warb.prio.get q) → t.warb.timer = some (n + 1)) ∧
        (s.begin dt).changesOnly t [.outputs, .warb, .stall0, .stall1, .grant]) ∧
      (rest = [] →
        (∀ run', t.warb.runs.get r = some run' → run'.started = false) ∧ t.warb.timer = none ∧
        (t.warb.owner = none → ∀ q, t.warb.waiting q = false) ∧
        (∀ o, t.warb.owner = some o → t.warb.waiting o = true ∧
          ∀ q, t.warb.waiting q = true → t.warb.prio.get q ≤ t.warb.prio.get o) ∧
        (∀ (c : Ctx) (y : Nat) (f : Frame), run.body = .row c y false → (s.ctx c).frame = some f →
          ∃ g, (t.ctx c).frame = some g ∧ g.e = f.e + 1 ∧ g.unretired = f.unretired ++ [y] ∧ g.held <:+ f.held ∧
            g.account.rowsCorrected = f.account.rowsCorrected +
              (match f.record with
               | some x => if x.kind = .noProfile then 0 else 1
               | none => 0) ∧
            ((s.ctx c).state ≠ .aborting → (s.ctx c).height ≤ f.e + 1 →
              g.held = f.held.drop ((s.ctx c).height - f.low))) ∧
        (∀ (c : Ctx) (y : Nat) (f : Frame), run.body = .row c y true → (s.ctx c).frame = some f →
          ∃ g, (t.ctx c).frame = some g ∧ g.e = f.e ∧ g.unretired = f.unretired ++ [y] ∧ g.held <:+ f.held) ∧
        (∀ w, run.body = .passWrite w → t.pb = { s.pb with responses := issuePass s.pb.responses }) ∧
        (s.begin dt).changesOnly t
          [.outputs, .pb, .rpw, .mept, .psto, .bpln, .ctx0, .ctx1, .evu, .warb, .stall0, .stall1, .grant])

/-- BURST_BEGUN completes: the owner's next burst has begun, and its run can no longer be withdrawn (R154, R155). -/
def Obligations.BegunBurstCannotBeWithdrawn : Prop :=
  ∀ (dt : Nat) (r : Requester) (run : Run) (b : BurstPlan) (rest : List BurstPlan) (s : State),
    s.warb.owner = some r → s.warb.runs.get r = some run → run.bursts = b :: rest → s.warb.suspensionDue = false →
    ∃ t, exec (.burstBegun dt) s = .next t ∧ t.warb.begun = true ∧ t.warb.owner = some r ∧
      t.warb.runs.get r = some ⟨run.body, b :: rest, true⟩ ∧ t.warb.withdraw r = t.warb ∧
      (s.begin dt).changesOnly t [.warb, .grant]

/-- PREEMPTION_SUSPEND completes: the owner, not PASS, at a boundary with its count at L and a requester above it
waiting, keeps its run, loses the channel, and a requester above it is granted (R159). An owner that has issued no burst of
its run stands at no boundary, and nothing happens (R155, R159). What counts as a boundary, the run begun in this grant or an
earlier one and no burst under way, is the model's reading (log 26, DEDUCED). -/
def Obligations.SuspendedOwnerKeepsItsRun : Prop :=
  ∀ (dt n : Nat) (o q : Requester) (run : Run) (s : State), s.warb.owner = some o → o ≠ .pass →
    s.warb.timer = some n → s.warb.latency ≤ n → s.warb.begun = false → s.warb.runs.get o = some run →
    s.warb.waiting q = true → s.warb.prio.get o < s.warb.prio.get q →
    (run.started = true →
      ∃ t w, exec (.preemptionSuspend dt) s = .next t ∧ t.warb.runs = s.warb.runs ∧ t.warb.owner = some w ∧
        s.warb.waiting w = true ∧ s.warb.prio.get o < s.warb.prio.get w ∧ t.warb.issued = s.warb.issued ∧
        (s.begin dt).changesOnly t [.stall0, .stall1, .grant]) ∧
    (run.started = false →
      ∃ t, exec (.preemptionSuspend dt) s = .next t ∧ (s.begin dt).changesOnly t [])

/-- MEMORY_WRITE_RESPONSE completes for PASS: the response completes the oldest waiting pass entry and, at the head of the
queue, returns upstream unchanged; no event latches and nothing is counted (R12, R13, R161). -/
def Obligations.PassResponseReturnsUnchanged : Prop :=
  ∀ (dt : Nat) (resp : Resp) (b : IssuedBurst) (bs : List IssuedBurst) (w : UpWrite) (rest : List RespEntry)
    (s : State), s.warb.issued.pass = b :: bs → s.pb.responses = ⟨.passed, w, true, none⟩ :: rest →
    s.pb.heldBy = none →
    ∃ t, exec (.memoryWriteResponse dt 0 resp) s = .next t ∧
      t.outputs.head? = some (.writeResponse w.tag resp) ∧ t.warb.issued = { s.warb.issued with pass := bs } ∧
      t.warb.errors = s.warb.errors ∧ t.pb.responses <:+ rest ∧
      (s.begin dt).changesOnly t [.outputs, .pb, .warb, .stall0, .stall1, .grant]

/-- MEMORY_WRITE_RESPONSE completes for an EMIT burst: an error latches MEMORY_ERROR and adds 1 to the memory-error count;
OKAY does not (R161, R162). At the last burst of its run the row retires: it leaves the rows not yet retired and every
waiting read of its context. A frame in FINISHING with every output row emitted and retired then ends: the context is IDLE, or
OFF where it has gone OFF at once, with no frame and no geometry, and its report takes a sequence number where the ring is
on; until then the frame goes on in its state (R16, R144, R145). For a REPORT burst an error latches MEMORY_ERROR and counts
nothing, and at the last response of its run, the eighth, the written record leaves the queue (R161, R162, R177). -/
def Obligations.EmitErrorIsCountedAndLatched : Prop :=
  (∀ (dt : Nat) (c : Ctx) (resp : Resp) (b : IssuedBurst) (bs : List IssuedBurst) (s : State),
    s.warb.issued.get (requesterFor c) = b :: bs → s.pb.heldBy = none →
    ∃ t, exec (.memoryWriteResponse dt (requesterFor c).tag resp) s = .next t ∧
      t.warb.issued = s.warb.issued.set (requesterFor c) bs ∧
      (resp = .okay → t.warb.errors = s.warb.errors) ∧
      (resp ≠ .okay → t.warb.errors = s.warb.errors + 1 ∧ t.evu.set.getLsbD 15 = true) ∧
      (b.last = false → (resp = .okay → t.evu = s.evu) ∧
        (s.begin dt).changesOnly t [.warb, .evu, .stall0, .stall1, .grant]) ∧
      (b.last = true →
        (∀ h ∈ t.pb.holds, h.waits = some c → b.row ∉ h.rows) ∧
        (∀ f, (s.ctx c).frame = some f →
          (∀ g, (t.ctx c).frame = some g → g.unretired = f.unretired.filter (fun y => decide (y ≠ b.row))) ∧
          ((s.ctx c).state = .finishing → f.e = (s.ctx c).height → (∀ y ∈ f.unretired, y = b.row) →
            ((t.ctx c).state = .idle ∨ (t.ctx c).state = .off) ∧ (t.ctx c).frame = none ∧ (t.ctx c).geo = none ∧
            t.rpw.nextSeq = (if s.rpw.slots = 0 then s.rpw.nextSeq else s.rpw.nextSeq + 1)) ∧
          ((s.ctx c).state ≠ .aborting →
            ((s.ctx c).state ≠ .finishing ∨ f.e ≠ (s.ctx c).height ∨ ∃ y ∈ f.unretired, y ≠ b.row) →
            (t.ctx c).state = (s.ctx c).state ∧ (t.ctx c).frame.isSome = true)) ∧
        (s.begin dt).changesOnly t
          [.outputs, .pb, .mept, .psto, .bpln, .lmem, .ctx0, .ctx1, .warb, .evu, .rpw, .stall0, .stall1, .grant])) ∧
  ∀ (dt : Nat) (resp : Resp) (b : IssuedBurst) (bs : List IssuedBurst) (s : State),
    s.warb.issued.report = b :: bs → s.pb.heldBy = none →
    ∃ t, exec (.memoryWriteResponse dt 3 resp) s = .next t ∧ t.warb.issued = { s.warb.issued with report := bs } ∧
      t.warb.errors = s.warb.errors ∧ (resp = .okay → t.evu = s.evu) ∧
      (resp ≠ .okay → t.evu.set = s.evu.set ||| 32768#19) ∧
      (b.last = false → t.rpw = s.rpw) ∧
      (b.last = true → ∀ (pre post : List QueuedReport) (x : QueuedReport) (addr : Nat),
        s.rpw.queue = pre ++ x :: post → x.stage = .written addr → (∀ y ∈ pre, ∀ k, y.stage ≠ .written k) →
        t.rpw.queue.map (fun y => y.report) = (pre ++ post).map (fun y => y.report) ∧
          ((∀ y ∈ pre ++ post, y.stage ≠ .waiting) → t.rpw = { s.rpw with queue := pre ++ post })) ∧
      (s.begin dt).changesOnly t [.warb, .evu, .rpw, .stall0, .stall1, .grant]

/-- STALL_TIMEOUT completes: the frame aborts with FRAME_ABORT latched, the context leaves RUNNING, and its band request
lapses (R146, R149). -/
def Obligations.StallTimeoutAbortsTheFrame : Prop :=
  ∀ (dt : Nat) (c : Ctx) (f : Frame) (t0 : Time) (s : State), s.stl.part ≠ .inReset → (s.ctx c).state = .running →
    (s.ctx c).frame = some f → f.stall = some t0 →
    (s.ctx c).settings.stall ≤ elapsed t0 (s.time + BitVec.ofNat 32 dt) → s.pb.heldBy = none →
    ∃ t, exec (.stallTimeout dt c) s = .next t ∧ t.evu.set.getLsbD 10 = true ∧ (t.ctx c).state ≠ .running ∧
      (t.ctx c).state ≠ .finishing ∧ t.bpln.requests.get c = none ∧
      (∀ g, (t.ctx c).frame = some g → (t.ctx c).state = .aborting ∧ g.outcome = .abortStall ∧ g.stall = none) ∧
      t.pb.responses = s.pb.responses ∧
      (s.begin dt).changesOnly t
        [.mept, .psto, .bpln, .ctx0, .ctx1, .warb, .evu, .pb, .lmem, .rpw, .outputs, .stall0, .stall1, .grant]

/-! ### Control records (chapter 10 and the owners' chapters) -/

/-- SHOT completes: the shot setting becomes the record's fields, each clamped into its range, and entries held keep
their snapshots (R68). -/
def Obligations.ShotReplacesTheShotSetting : Prop :=
  ∀ (dt : Nat) (p : Params) (s : State), s.takesRecords = true →
    ∃ t, exec (.shot dt p) s = .next t ∧ t.mept.shot.hs = max 1 (min 8192 p.p1.toNat) ∧
      t.mept.shot.rp = max 1 (min 16777215 p.p2.toNat) ∧ t.mept.shot.e = min 1000000 p.p3.toNat ∧
      t.mept.shot.offset = (p.p4.setWidth 16).toInt ∧ t.mept.shot.nb = max 4 (min 64 p.p5.toNat) ∧
      t.mept.shot.dp = min 1000000 p.p6.toNat ∧ t.mept.entries = s.mept.entries ∧ t.mept.nextId = s.mept.nextId ∧
      t.crec = { s.crec with taken := s.crec.taken + 1, consec := 0 } ∧
      (s.begin dt).changesOnly t [.mept, .crec]

/-- CONTEXT_GEOMETRY completes: in OFF or IDLE the record's window, width, height, stride and stall limit, clamped, are in
force at once and the optics are kept; in a frame the settings in force and the state do not change, and the next settings,
begun as a copy of those in force where none were held, get the same fields and keep their optics (R131, Table 8.1). In force
they decide the window's extent, the height clamp, the depth and the mode in effect, with DEPTH_LIMIT for a fallback, the
state, and on leaving OFF the consumed flags (`tookEffect`; R4, R7, R62, R130, R132, R133). -/
def Obligations.GeometryTakesEffectAtOnceOrNext : Prop :=
  ∀ (dt : Nat) (c : Ctx) (p : Params) (s : State), s.takesRecords = true →
    ∃ t, exec (.contextGeometry dt c p) s = .next t ∧ t.crec = { s.crec with taken := s.crec.taken + 1, consec := 0 } ∧
      (((s.ctx c).state = .off ∨ (s.ctx c).state = .idle) →
        (t.ctx c).settings = { (s.ctx c).settings with
          window := some (p.p1.toNat + p.p2.toNat % 256 * 2 ^ 32, p.p3)
          width := max 16 (min 8192 (p.p4.toNat % 65536)) / 4 * 4
          height := max 16 (min 4320 (p.p4.toNat / 65536))
          stride := max (p.p5.toNat / 32 * 32) (8 * (max 16 (min 8192 (p.p4.toNat % 65536)) / 4 * 4))
          stall := max 100 (min 1000000 p.p6.toNat) } ∧
        (t.ctx c).next = (s.ctx c).next ∧ s.tookEffect t c) ∧
      ((s.ctx c).state ≠ .off → (s.ctx c).state ≠ .idle →
        (t.ctx c).settings = (s.ctx c).settings ∧ (t.ctx c).state = (s.ctx c).state ∧
        (t.ctx c).next = some { (s.ctx c).next.getD (s.ctx c).settings with
          window := some (p.p1.toNat + p.p2.toNat % 256 * 2 ^ 32, p.p3)
          width := max 16 (min 8192 (p.p4.toNat % 65536)) / 4 * 4
          height := max 16 (min 4320 (p.p4.toNat / 65536))
          stride := max (p.p5.toNat / 32 * 32) (8 * (max 16 (min 8192 (p.p4.toNat % 65536)) / 4 * 4))
          stall := max 100 (min 1000000 p.p6.toNat) } ∧
        (s.begin dt).changesOnly t [blockOf c, .crec, .stall0, .stall1, .grant]) ∧
      (s.begin dt).changesOnly t [.mept, .psto, .bpln, .ctx0, .ctx1, .warb, .crec, .evu, .stall0, .stall1, .grant]

/-- CONTEXT_OPTICS completes: in OFF or IDLE the record's mode, view, origin, scale and black levels, clamped, are in force at
once with the geometry kept, and the context follows the mode, OFF for TRANSPARENT and IDLE for another; in a frame only the
view is in force at once, and the next settings, begun as a copy of those in force where none were held, get every optics
field and keep their geometry (R131, Table 8.1). In force they decide the window's extent, the height clamp, the depth and
the mode in effect, with DEPTH_LIMIT for a fallback, and on leaving OFF the consumed flags (`tookEffect`; R4, R7, R62, R130,
R132, R133). -/
def Obligations.OpticsSetTheViewAndFollowTheMode : Prop :=
  ∀ (dt : Nat) (c : Ctx) (p : Params) (s : State), s.takesRecords = true →
    ∃ t, exec (.contextOptics dt c p) s = .next t ∧ t.crec = { s.crec with taken := s.crec.taken + 1, consec := 0 } ∧
      (((s.ctx c).state = .off ∨ (s.ctx c).state = .idle) →
        (t.ctx c).state = (if p.p1.toNat % 256 = 0 then .off else .idle) ∧
        (t.ctx c).settings = { (s.ctx c).settings with
          mode := if p.p1.toNat % 256 = 0 then .transparent else if p.p1.toNat % 256 = 1 then .shadeOnly
            else if p.p1.toNat % 256 = 2 then .geometryOnly else .correct
          view := if p.p1.toNat / 256 % 256 = 0 then .normal else .gainView
          ox := (p.p2.setWidth 16).toInt
          oy := (p.p2.extractLsb' 16 16).toInt
          scale := max 256 (min 4096 p.p3.toNat)
          blackR := min 8191 p.p4.toNat
          blackG := min 8191 p.p5.toNat
          blackB := min 8191 p.p6.toNat } ∧
        s.tookEffect t c) ∧
      ((s.ctx c).state ≠ .off → (s.ctx c).state ≠ .idle →
        (t.ctx c).state = (s.ctx c).state ∧
        (t.ctx c).settings = { (s.ctx c).settings with
          view := if p.p1.toNat / 256 % 256 = 0 then .normal else .gainView } ∧
        (t.ctx c).next = some { (s.ctx c).next.getD (s.ctx c).settings with
          mode := if p.p1.toNat % 256 = 0 then .transparent else if p.p1.toNat % 256 = 1 then .shadeOnly
            else if p.p1.toNat % 256 = 2 then .geometryOnly else .correct
          view := if p.p1.toNat / 256 % 256 = 0 then .normal else .gainView
          ox := (p.p2.setWidth 16).toInt
          oy := (p.p2.extractLsb' 16 16).toInt
          scale := max 256 (min 4096 p.p3.toNat)
          blackR := min 8191 p.p4.toNat
          blackG := min 8191 p.p5.toNat
          blackB := min 8191 p.p6.toNat } ∧
        (s.begin dt).changesOnly t [blockOf c, .crec, .stall0, .stall1, .grant]) ∧
      (s.begin dt).changesOnly t [.mept, .psto, .bpln, .ctx0, .ctx1, .warb, .crec, .evu, .stall0, .stall1, .grant]

/-- LINE_MEMORY completes: with both contexts IDLE or OFF the split and both depths follow at once, else the share becomes
the held split (R129, R130). -/
def Obligations.LineMemorySplitsNowOrLater : Prop :=
  ∀ (dt : Nat) (p : Params) (s : State), s.takesRecords = true →
    ∃ t, exec (.lineMemory dt p) s = .next t ∧
      t.crec = { s.crec with taken := s.crec.taken + 1, consec := 0 } ∧
      (s.bothResting = true →
        t.lmem = { s.lmem with share0 := min 262144 p.p1.toNat / 4096 * 4096 } ∧
        (t.ctx .ctx0).depth = min 128 (min 262144 p.p1.toNat / 4096 * 4096 / (s.ctx .ctx0).settings.width) ∧
        (t.ctx .ctx1).depth =
          min 128 ((262144 - min 262144 p.p1.toNat / 4096 * 4096) / (s.ctx .ctx1).settings.width) ∧
        (s.begin dt).changesOnly t [.lmem, .ctx0, .ctx1, .stall0, .stall1, .evu, .crec]) ∧
      (s.bothResting = false →
        t.lmem = { s.lmem with held := some (min 262144 p.p1.toNat / 4096 * 4096) } ∧
        (s.begin dt).changesOnly t [.lmem, .crec])

/-- TRACKING completes with no deferral waiting and the window not overrun: the monitor's and the estimator's settings are
the record's, clamped, and the position state, the track and the counters do not change (R36, R56). -/
def Obligations.TrackingReplacesMonitorAndEstimatorSettings : Prop :=
  ∀ (dt : Nat) (p : Params) (s : State), s.takesRecords = true → s.bpln.deferral = none →
    (∀ t0, s.pmon.timer = some t0 →
      elapsed t0 (s.time + BitVec.ofNat 32 dt) ≤ max 100 (p.p2.toNat / 65536)) →
    ∃ t, exec (.tracking dt p) s = .next t ∧
      t.pmon = { s.pmon with
        lower := p.p2.toNat % 65536
        upper := max 100 (p.p2.toNat / 65536)
        recover := max 1 (min 8 (p.p1.toNat / 256 % 256))
        jump := max 1 (p.p3.toNat % 65536)
        rehome := max 2 (min 8 (p.p1.toNat / 65536 % 256)) } ∧
      t.fest = ⟨if p.p1.toNat % 256 = 0 then .latest else if p.p1.toNat % 256 = 1 then .predict else .await,
        p.p3.toNat / 65536, p.p4.toNat % 65536⟩ ∧
      t.crec = { s.crec with taken := s.crec.taken + 1, consec := 0 } ∧
      (s.begin dt).changesOnly t [.pmon, .fest, .crec, .stall0, .stall1, .grant]

/-- MOTION completes: the motion settings, the line latency and the bad-telegram limit are the record's, clamped, and the
motion state is not changed (R28, R111). -/
def Obligations.MotionReplacesMotionAndLineSettings : Prop :=
  ∀ (dt : Nat) (p : Params) (s : State), s.takesRecords = true →
    ∃ t, exec (.motion dt p) s = .next t ∧
      t.bpln = { s.bpln with
        settings := ⟨max 1 (p.p1.toNat % 65536), max 1 (min 4096 (p.p1.toNat / 65536)), min 4096 (p.p2.toNat % 65536),
          min 255 (p.p2.toNat / 65536),
          if p.p3.toNat % 256 = 0 then .hold else if p.p3.toNat % 256 = 1 then .rest else .neutral⟩ } ∧
      t.llr = { s.llr with
        latency := p.p4.toNat % 65536
        badLimit := max 1 (min 16 (p.p3.toNat / 256 % 256)) } ∧
      t.crec = { s.crec with taken := s.crec.taken + 1, consec := 0 } ∧
      (s.begin dt).changesOnly t [.bpln, .llr, .crec]

/-- PROFILE_WINDOW completes: the window is off, or 4 KiB at the base with its low 12 bits cleared; in OPEN the coverage
is cleared, in PENDING it is kept; the table's bytes are kept (R76). -/
def Obligations.ProfileWindowMovesAndClearsCoverage : Prop :=
  ∀ (dt : Nat) (p : Params) (s : State), s.takesRecords = true →
    ∃ t, exec (.profileWindow dt p) s = .next t ∧
      t.pb = { s.pb with
        profileBase := if p.p2.toNat / 256 % 256 = 0 then none
          else some ((p.p1.toNat + p.p2.toNat % 256 * 2 ^ 32) / 4096 * 4096) } ∧
      t.psto = { s.psto with coverage := if s.psto.pendingSwap then s.psto.coverage else 0 } ∧
      t.crec = { s.crec with taken := s.crec.taken + 1, consec := 0 } ∧
      (s.begin dt).changesOnly t [.pb, .psto, .crec]

/-- PROFILE_COMMIT completes: the first check of Table 5.2 that fails (`failsFirst`, the checks spelled out in `meets`) is the
reason of the rejection, PROFILE_REJECTED latches, and tables, map and staging state are left; passing every check makes the
staging state PENDING with the clamped staging table, the outcome carries CLAMPED exactly if a node's ratio offset lies
outside −4096..+4096, and PROFILE_ACCEPTED latches (R79 to R86). -/
def Obligations.CommitAcceptsOrRejectsWithAReason : Prop :=
  ∀ (dt : Nat) (s : State), s.takesRecords = true →
    ∃ t, exec (.profileCommit dt) s = .next t ∧
      (∀ r, s.psto.failsFirst r →
        s.psto.commitReason = some r ∧ t.psto = { s.psto with outcome := .rejected r } ∧
        t.evu.set = s.evu.set ||| 4096#19) ∧
      ((∀ r, s.psto.meets r) →
        s.psto.commitReason = none ∧ t.evu.set = s.evu.set ||| 2048#19 ∧
        ∃ clamped, t.psto = { s.psto with
            stagingTable := s.psto.commit.stagingTable
            pendingSwap := true
            outcome := .accepted clamped } ∧
          (clamped = true ↔ ∃ i, i < s.psto.stagingTable.nodes ∧
            (s.psto.stagingTable.kofs i < -4096 ∨ 4096 < s.psto.stagingTable.kofs i))) ∧
      t.crec = { s.crec with taken := s.crec.taken + 1, consec := 0 } ∧
      (s.begin dt).changesOnly t [.psto, .evu, .crec]

/-- An accepted commit leaves every ratio offset of the staged profile within −4096..+4096, and every other byte as it
was (R86). -/
def Obligations.AcceptedOffsetsLieInRange : Prop :=
  ∀ p : ProfileStore, p.stagingTable.wf = true → p.commitReason = none →
    (∀ i, i < p.stagingTable.nodes →
      p.commit.stagingTable.kofs i = max (-4096) (min 4096 (p.stagingTable.kofs i))) ∧
    ∀ x, (∀ i, i < p.stagingTable.nodes → x ≠ 42 + 8 * i ∧ x ≠ 43 + 8 * i) →
      p.commit.stagingTable.read x = p.stagingTable.read x

/-- EVENT_ACK completes: every kind its word 1 names leaves the set, no other; an asserted line is released when no
unmasked event is left and enters a gap otherwise (R172, R173). -/
def Obligations.AckRemovesTheNamedEvents : Prop :=
  ∀ (dt : Nat) (p : Params) (s : State), s.takesRecords = true →
    ∃ t, exec (.eventAck dt p) s = .next t ∧
      (∀ i, i < 19 → t.evu.set.getLsbD i = (s.evu.set.getLsbD i && !p.p1.getLsbD i)) ∧ t.evu.mask = s.evu.mask ∧
      t.evu.line =
        (if s.evu.line = .asserted then
          (if t.evu.set &&& t.evu.mask = 0 then .released else .gap (s.time + BitVec.ofNat 32 dt))
        else s.evu.line) ∧
      t.crec = { s.crec with taken := s.crec.taken + 1, consec := 0 } ∧
      (s.begin dt).changesOnly t [.evu, .crec]

/-- EVENT_MASK completes: the mask becomes the set its word 1 names, the event set is kept, the consecutive-reject limit
is word 2 clamped to 1..16, and the line follows unless it is in a gap (R167, R171, R173). -/
def Obligations.MaskReplacesTheEventMask : Prop :=
  ∀ (dt : Nat) (p : Params) (s : State), s.takesRecords = true →
    ∃ t, exec (.eventMask dt p) s = .next t ∧ t.evu.mask = p.p1.setWidth 19 ∧ t.evu.set = s.evu.set ∧
      (s.evu.line = .asserted ∨ s.evu.line = .released →
        t.evu.line = (if t.evu.set &&& t.evu.mask = 0 then .released else .asserted)) ∧
      (∀ g, s.evu.line = .gap g → t.evu.line = .gap g) ∧
      t.crec = { s.crec with taken := s.crec.taken + 1, consec := 0, limit := max 1 (min 16 p.p2.toNat) } ∧
      (s.begin dt).changesOnly t [.evu, .crec]

/-- ATTN_GAP_END completes: 2 µs after the gap began the line is asserted if an unmasked event is latched and released
otherwise; before that nothing happens (R173 (3)). -/
def Obligations.GapEndsAfterTwoMicroseconds : Prop :=
  ∀ (dt : Nat) (g : Time) (s : State), s.stl.part = .ready → s.evu.line = .gap g →
    ∃ t, exec (.attnGapEnd dt) s = .next t ∧
      (2 ≤ elapsed g (s.time + BitVec.ofNat 32 dt) →
        t.evu = { s.evu with line := if s.evu.set &&& s.evu.mask = 0 then .released else .asserted } ∧
        (s.begin dt).changesOnly t [.evu]) ∧
      (elapsed g (s.time + BitVec.ofNat 32 dt) < 2 → (s.begin dt).changesOnly t [])

/-- REPORT_RING completes: base, slot count and probe span are the record's, clamped, the next slot is 0, the sequence
number is kept, and a count of 0 drops every waiting record with REPORT_DROPPED (R175). -/
def Obligations.RingRecordSetsTheRing : Prop :=
  ∀ (dt : Nat) (p : Params) (s : State), s.takesRecords = true →
    ∃ t, exec (.reportRing dt p) s = .next t ∧
      t.rpw.base = (p.p1.toNat + p.p2.toNat % 256 * 2 ^ 32) / 256 * 256 ∧ t.rpw.slots = min 256 p.p3.toNat ∧
      t.rpw.nextSlot = 0 ∧ t.rpw.nextSeq = s.rpw.nextSeq ∧ t.rpw.probeFirst = min 63 (p.p4.toNat % 65536) ∧
      t.rpw.probeLast =
        max t.rpw.probeFirst (min (t.rpw.probeFirst + 3) (min 63 (p.p4.toNat / 65536))) ∧
      (p.p3.toNat ≠ 0 → t.rpw.queue = s.rpw.queue ∧ t.rpw.dropped = s.rpw.dropped ∧ t.evu = s.evu) ∧
      (p.p3.toNat = 0 → t.rpw.queue = s.rpw.queue.filter (fun q => decide (q.stage ≠ .waiting)) ∧
        t.rpw.dropped =
          s.rpw.dropped + BitVec.ofNat 16 (s.rpw.queue.filter fun q => decide (q.stage = .waiting)).length ∧
        ((∃ q ∈ s.rpw.queue, q.stage = .waiting) → t.evu.set.getLsbD 16 = true)) ∧
      t.crec = { s.crec with taken := s.crec.taken + 1, consec := 0 } ∧
      (s.begin dt).changesOnly t [.rpw, .evu, .crec]

/-- ARBITER completes: priorities, enable and latency are the record's, clamped; runs, issued lists and the error count
are kept. With preemption on and a waiting requester above the owner by the new priorities, the timer starts from 0 or goes on
with its count; an owner, not PASS, at a boundary whose count is at or above the new L is suspended at once: its run keeps its
place, and the channel goes to a waiting requester of the highest priority, which stands above it. Any other owner keeps the
channel. With preemption off, or no requester above the owner, the timer stops, and a free channel stays free only while no
requester waits (R156, R159, R160). What counts as a boundary is the model's reading (log 26, DEDUCED). -/
def Obligations.ArbiterRecordReplacesTheSettings : Prop :=
  ∀ (dt : Nat) (p : Params) (s : State), s.takesRecords = true →
    ∃ t, exec (.arbiter dt p) s = .next t ∧
      t.warb.prio = ⟨min 3 (p.p1.toNat % 256), min 3 (p.p1.toNat / 256 % 256), min 3 (p.p1.toNat / 65536 % 256),
        min 3 (p.p1.toNat / 16777216)⟩ ∧
      t.warb.preempt = decide (p.p2.toNat % 256 ≠ 0) ∧ t.warb.latency = min 255 p.p3.toNat ∧
      t.warb.runs = s.warb.runs ∧ t.warb.issued = s.warb.issued ∧ t.warb.errors = s.warb.errors ∧
      (∀ o, s.warb.owner = some o → ∀ above boundary : Prop,
        (above ↔ t.warb.preempt = true ∧ ∃ q, s.warb.waiting q = true ∧ t.warb.prio.get o < t.warb.prio.get q) →
        (boundary ↔ o ≠ .pass ∧ s.warb.begun = false ∧ ∃ run, s.warb.runs.get o = some run ∧ run.started = true) →
        (above → boundary → t.warb.latency ≤ s.warb.timer.getD 0 →
          ∃ w, t.warb.owner = some w ∧ s.warb.waiting w = true ∧ t.warb.prio.get o < t.warb.prio.get w ∧
            (∀ q, s.warb.waiting q = true → t.warb.prio.get q ≤ t.warb.prio.get w) ∧ t.warb.timer = none ∧
            t.warb.begun = false ∧ t.warb.grants = w :: s.warb.grants.filter (fun q => decide (q ≠ w))) ∧
        (¬(above ∧ boundary ∧ t.warb.latency ≤ s.warb.timer.getD 0) →
          t.warb.owner = some o ∧ t.warb.grants = s.warb.grants ∧ t.warb.begun = s.warb.begun ∧
            (above → t.warb.timer = some (s.warb.timer.getD 0)) ∧ (¬above → t.warb.timer = none))) ∧
      (s.warb.owner = none → t.warb.owner = none → ∀ q, s.warb.waiting q = false) ∧
      (t.warb.preempt = false → t.warb.timer = none) ∧
      t.crec = { s.crec with taken := s.crec.taken + 1, consec := 0 } ∧
      (s.begin dt).changesOnly t [.warb, .crec, .stall0, .stall1, .grant]

/-- STATUS_REQUEST completes: with the ring off nothing is generated; else the report takes the next sequence number, and
with room in the queue it is appended at the newest end with outcome STATUS, else it is dropped with REPORT_DROPPED
(R176, R178). -/
def Obligations.StatusRequestGeneratesOrDrops : Prop :=
  ∀ (dt : Nat) (s : State), s.takesRecords = true →
    ∃ t, exec (.statusRequest dt) s = .next t ∧
      t.crec = { s.crec with taken := s.crec.taken + 1, consec := 0 } ∧
      (s.rpw.slots = 0 → t.rpw = s.rpw ∧ t.evu = s.evu) ∧
      (s.rpw.slots ≠ 0 → t.rpw.nextSeq = s.rpw.nextSeq + 1) ∧
      (s.rpw.slots ≠ 0 → s.rpw.queue.length < 2 →
        (∃ q, t.rpw.queue.getLast? = some q ∧ q.report.outcome = .status ∧ q.report.seq = s.rpw.nextSeq ∧
          q.report.context = none ∧ q.report.events = s.evu.set ∧
          q.report.time = s.time + BitVec.ofNat 32 dt) ∧
        t.rpw.queue.length = s.rpw.queue.length + 1 ∧ t.rpw.dropped = s.rpw.dropped ∧ t.evu = s.evu) ∧
      (s.rpw.slots ≠ 0 → 2 ≤ s.rpw.queue.length →
        t.rpw.queue = s.rpw.queue ∧ t.rpw.dropped = s.rpw.dropped + 1 ∧ t.evu.set = s.evu.set ||| 65536#19) ∧
      (s.begin dt).changesOnly t [.rpw, .evu, .warb, .crec, .stall0, .stall1, .grant]

/-- RESET_ALL completes: the record becomes the pending reset, and no context is in RUNNING or FINISHING after it; each frame
that can abort aborts at the record with FRAME_ABORT, its band request lapsed and unanswered: while both contexts are in such
frames no request is outstanding (R146, R183 (1)). -/
def Obligations.ResetAllBecomesPendingAndAborts : Prop :=
  ∀ (dt : Nat) (s : State), s.takesRecords = true →
    ∃ t, exec (.resetAll dt) s = .next t ∧ t.stl = { s.stl with pendingReset := true } ∧
      (∀ c, (t.ctx c).state ≠ .running ∧ (t.ctx c).state ≠ .finishing) ∧
      (∀ c, (s.ctx c).state = .running ∨ (s.ctx c).state = .finishing →
        t.evu.set.getLsbD 10 = true ∧ t.bpln.requests.get c = none) ∧
      ((∀ c, (s.ctx c).state = .running ∨ (s.ctx c).state = .finishing) →
        t.psto = s.psto ∧ ∀ e ∈ t.mept.entries, ∃ e' ∈ s.mept.entries, e.id = e'.id ∧ e.slots = e'.slots) ∧
      t.crec = { s.crec with taken := s.crec.taken + 1, consec := 0 } ∧ t.pb.responses = s.pb.responses ∧
      (s.begin dt).changesOnly t
        [.stl, .mept, .psto, .bpln, .ctx0, .ctx1, .warb, .evu, .pb, .lmem, .rpw, .outputs, .crec, .stall0, .stall1,
          .grant]

/-- RESET_CONTEXT completes: a frame in RUNNING or FINISHING aborts with FRAME_ABORT and outcome ABORT_RESET; in IDLE, OFF
and ABORTING the context is unchanged (R150). -/
def Obligations.ResetContextAbortsItsFrame : Prop :=
  ∀ (dt : Nat) (c : Ctx) (s : State), s.takesRecords = true →
    ∃ t, exec (.resetContext dt c) s = .next t ∧
      t.crec = { s.crec with taken := s.crec.taken + 1, consec := 0 } ∧
      ((s.ctx c).state = .running ∨ (s.ctx c).state = .finishing →
        t.evu.set.getLsbD 10 = true ∧ (t.ctx c).state ≠ .running ∧ (t.ctx c).state ≠ .finishing ∧
        t.bpln.requests.get c = none ∧
        ∀ g, (t.ctx c).frame = some g → (t.ctx c).state = .aborting → g.outcome = .abortReset) ∧
      (s.begin dt).changesOnly t
        [.mept, .psto, .bpln, .ctx0, .ctx1, .warb, .evu, .pb, .lmem, .rpw, .outputs, .crec, .stall0,
          .stall1, .grant] ∧
      ((s.ctx c).state = .idle ∨ (s.ctx c).state = .off ∨ (s.ctx c).state = .aborting →
        (s.begin dt).changesOnly t [.crec, .stall0, .stall1, .grant])

/-- RESET_TRACKING completes: LOST without POS_LOST, no previous arrival, timer stopped, counts and run cleared; the track
is emptied and the last iris kept; the counters, the settings and the telegram in assembly are kept; with no deferral
waiting the motion state is the rest position, or unset, at strength 0 (R38, R112). -/
def Obligations.ResetTrackingRestartsAcquisition : Prop :=
  ∀ (dt : Nat) (s : State), s.takesRecords = true →
    ∃ t, exec (.resetTracking dt) s = .next t ∧
      t.pmon = { s.pmon with pos := .lost, prevArrival := none, timer := none, timely := 0, run := none } ∧
      t.llr = { s.llr with consecBad := 0 } ∧ t.ptrk = ⟨[], s.ptrk.lastIris⟩ ∧ t.fest = s.fest ∧
      t.bpln.settings = s.bpln.settings ∧
      (s.begin dt).changesOnly t
        [.pmon, .llr, .ptrk, .bpln, .crec, .mept, .psto, .ctx0, .ctx1, .warb, .evu, .stall0, .stall1, .grant] ∧
      t.crec = { s.crec with taken := s.crec.taken + 1, consec := 0 } ∧
      (s.bpln.deferral = none →
        t.bpln.motion =
          (if s.psto.hasActive then ⟨some s.psto.activeTable.rest, some s.psto.activeTable.rest, 0⟩
           else ⟨none, none, 0⟩) ∧
        (s.begin dt).changesOnly t [.pmon, .llr, .ptrk, .bpln, .crec, .stall0, .stall1, .grant])

/-- RESET_PROFILES completes: the active profile is NONE, both tables read 0 everywhere, staging is OPEN, no granule is
covered, the last commit outcome is NONE (R91). -/
def Obligations.ResetProfilesEmptiesTheStore : Prop :=
  ∀ (dt : Nat) (s : State), s.takesRecords = true →
    ∃ t, exec (.resetProfiles dt) s = .next t ∧ t.psto.hasActive = false ∧ (∀ x, t.psto.activeTable.read x = 0) ∧
      (∀ x, t.psto.stagingTable.read x = 0) ∧ t.psto.pendingSwap = false ∧ t.psto.coverage = 0 ∧
      t.psto.outcome = .none ∧ t.crec = { s.crec with taken := s.crec.taken + 1, consec := 0 } ∧
      (s.begin dt).changesOnly t [.psto, .crec]

/-- RECORD_REJECTED completes: the first check that fails gives the reason (partial: MALFORMED; then CHECK, KIND, TARGET);
the slot is counted, and at the consecutive-reject limit CONTROL_FAULT latches; nothing else changes (R165 to R167). -/
def Obligations.RejectedSlotIsCountedUnderItsFirstReason : Prop :=
  ∀ (dt : Nat) (slot : Slot) (s : State), s.takesRecords = true → ∀ r,
    (r = .malformed ∧ slot.full = false ∨
      r = .check ∧ slot.full = true ∧ checkSumOk slot.data = false ∨
      r = .kind ∧ slot.full = true ∧ checkSumOk slot.data = true ∧ (kindOf slot.data < 1 ∨ 14 < kindOf slot.data) ∨
      r = .target ∧ slot.full = true ∧ checkSumOk slot.data = true ∧ 1 ≤ kindOf slot.data ∧ kindOf slot.data ≤ 14 ∧
        targetOk (kindOf slot.data) (targetOf slot.data) = false) →
    ∃ t, exec (.recordRejected dt slot) s = .next t ∧
      t.crec = { s.crec with
        rejected := s.crec.rejected + 1
        reason := r
        consec := if s.crec.limit ≤ s.crec.consec + 1 then 0 else s.crec.consec + 1 } ∧
      (s.crec.limit ≤ s.crec.consec + 1 → t.evu.set = s.evu.set ||| 131072#19) ∧
      (s.crec.consec + 1 < s.crec.limit → t.evu = s.evu) ∧ (s.begin dt).changesOnly t [.crec, .evu]

/-! ### Start-up (chapter 11) -/

/-- RESET_ALL_TAKES_EFFECT completes when the conditions of closing hold together: every block at its value after reset,
the counter at 0, the part in LOADING; while one does not hold, nothing happens (R184). Writes presented and not taken
stay presented (the model's own list, log 5). -/
def Obligations.ClosedResetAllReloads : Prop :=
  ∀ (dt : Nat) (s : State),
    ∃ t, exec (.resetAllTakesEffect dt) s = .next t ∧
      (s.stl.pendingReset = true → s.bothResting = true → s.pb.holds = [] → s.pb.responses = [] → s.pb.reads = [] →
        s.warb.owner = none → (∀ r, s.warb.runs.get r = none ∧ s.warb.issued.get r = []) → s.rpw.queue = [] →
        State.reset.changesOnly t [.pb, .pending] ∧ t.pb = { PortBridge.reset with channel := s.pb.channel }) ∧
      ((s.stl.pendingReset = false ∨ s.bothResting = false ∨ s.pb.holds ≠ [] ∨ s.pb.responses ≠ [] ∨
        s.pb.reads ≠ [] ∨ s.warb.owner ≠ none ∨ (∃ r, s.warb.runs.get r ≠ none ∨ s.warb.issued.get r ≠ []) ∨
        s.rpw.queue ≠ []) → (s.begin dt).changesOnly t [])

/-- PIN_RESET_ASSERT completes from every state: the part is in reset with the counter at 0, the select line deasserted,
ATTN released, every queue, frame, entry, sample, table and event discarded, the pending reset none, the store fault
mark clear (R182). That writes presented and not taken are dropped too is the model's choice (log 19). -/
def Obligations.PinResetDiscardsAllWork : Prop :=
  ∀ (dt : Nat) (s : State),
    ∃ t, exec (.pinResetAssert dt) s = .next t ∧ t.stl.part = .inReset ∧ t.stl.pendingReset = false ∧
      t.stl.storeFault = false ∧ t.stl.spiSelect = false ∧ t.outputs = [] ∧
      State.reset.changesOnly t [.stl, .outputs, .pending]

/-- PIN_RESET_RELEASE completes in reset: the counter starts from 0, the part enters LOADING in phase HEADER and begins the
image read with command 0x03 and address 0 (R182, R185). -/
def Obligations.ReleaseBeginsTheImageRead : Prop :=
  ∀ (dt : Nat) (s : State), s.stl.part = .inReset →
    ∃ t, exec (.pinResetRelease dt) s = .next t ∧ t.time = 0 ∧ t.stl.part = .loading ∧
      t.stl.image = some .header ∧ t.stl.spiSelect = true ∧ t.outputs = [.spiRead 0x03 0] ∧
      State.reset.changesOnly t [.pending]

/-- IMAGE_HEADER completes: a header with the tag, a zero sum, a count of at most 7 and a rate of at most 3 sets the
control window and the line rate, and the part reads on or, at count 0, is READY; a bad one leaves the built-in base and
rate, sets the store fault mark, latches STORE_FAULT and makes the part READY (R185, R186, R188). -/
def Obligations.HeaderSetsWindowAndRateOrMarksAFault : Prop :=
  ∀ (dt : Nat) (d : BeatData) (s : State), s.stl.part = .loading → s.stl.image = some .header →
    ∃ t, exec (.imageHeader dt d) s = .next t ∧ t.crec = s.crec ∧
      (d.extractLsb' 0 32 = 0x31434A55 → checkSumOk d = true → (d.extractLsb' 32 8).toNat ≤ 7 →
        (d.extractLsb' 40 8).toNat ≤ 3 →
        t.pb = { s.pb with controlBase := (d.extractLsb' 64 40).toNat / 4096 * 4096 } ∧
        t.stl.lineRate =
          (if d.extractLsb' 40 8 = 0 then .baud250k else if d.extractLsb' 40 8 = 1 then .baud500k
           else if d.extractLsb' 40 8 = 2 then .baud1M else .baud2M) ∧
        (d.extractLsb' 32 8 ≠ 0 →
          t.stl.part = .loading ∧ t.stl.image = some (.records (d.extractLsb' 32 8).toNat 0)) ∧
        (d.extractLsb' 32 8 = 0 → t.stl.part = .ready ∧ t.stl.image = none)) ∧
      ((d.extractLsb' 0 32 ≠ 0x31434A55 ∨ checkSumOk d = false ∨ 7 < (d.extractLsb' 32 8).toNat ∨
          3 < (d.extractLsb' 40 8).toNat) →
        t.pb = { s.pb with controlBase := 0xFFFFFFF000 } ∧ t.stl.lineRate = .baud1M ∧ t.stl.storeFault = true ∧
        t.stl.part = .ready ∧ t.evu.set.getLsbD 18 = true) ∧
      (s.begin dt).changesOnly t [.stl, .pb, .evu, .rpw, .line, .warb, .stall0, .stall1, .grant]

/-- IMAGE_RECORD completes: a slot that fails a check is counted as rejected and sets the store fault mark, one that passes
is counted as taken and has the effect of its kind, `recordEffect`, as a record of the control window has it (R165, R187);
after the last record, or a RESET of scope ALL that is taken, the part is READY, else it reads on (R187). The kind, the target
and the parameter words stand where Table 10.1 puts them, and the effect of a kind and target is that of its row in Table 10.2:
the command of that row leaves it, counted (`recordTable`). A slot with a zero sum passes exactly if the table has its kind and
target (R166). -/
def Obligations.ImageRecordIsCountedAndTheImageEnds : Prop :=
  (∀ d : BeatData, kindOf d = (d.extractLsb' 0 16).toNat ∧ targetOf d = (d.extractLsb' 16 16).toNat ∧
    paramsOf d = ⟨d.extractLsb' 32 32, d.extractLsb' 64 32, d.extractLsb' 96 32, d.extractLsb' 128 32,
      d.extractLsb' 160 32, d.extractLsb' 192 32⟩ ∧
    (checkSumOk d = true →
      (slotReason ⟨d, true⟩ = none ↔ ∃ x, recordTable 0 (paramsOf d) (kindOf d) (targetOf d) = some x))) ∧
  (∀ (dt kind target : Nat) (p : Params) (c : Instr) (effect : State → State),
    recordTable dt p kind target = some (c, effect) →
    (∀ u, recordEffect kind target p u = effect u) ∧
      ∀ s : State, s.takesRecords = true →
        ∃ t, exec c s = .next t ∧
          t.crec = { (effect (s.begin dt)).crec with
            taken := (effect (s.begin dt)).crec.taken + 1
            consec := 0 } ∧
          (effect (s.begin dt)).changesOnly t (.crec :: settleBlocks)) ∧
  ∀ (dt count read : Nat) (d : BeatData) (s : State), s.stl.part = .loading → s.stl.image = some (.records count read) →
    ∃ t, exec (.imageRecord dt d) s = .next t ∧
      (∀ r, slotReason ⟨d, true⟩ = some r →
        t.crec.rejected = s.crec.rejected + 1 ∧ t.crec.reason = r ∧ t.crec.taken = s.crec.taken ∧
        t.stl.storeFault = true) ∧
      (slotReason ⟨d, true⟩ = none →
        t.crec.taken = s.crec.taken + 1 ∧ t.crec.consec = 0 ∧ t.crec.rejected = s.crec.rejected ∧
        t.stl.storeFault = s.stl.storeFault ∧
        ∀ e, e = recordEffect (kindOf d) (targetOf d) (paramsOf d) (s.begin dt) →
          t.crec = { e.crec with taken := e.crec.taken + 1, consec := 0 } ∧ t.evu.mask = e.evu.mask ∧
          (t.stl.part = .loading → e.changesOnly t [.stl, .crec, .stall0, .stall1, .grant]) ∧
          e.changesOnly t [.stl, .crec, .evu, .rpw, .line, .warb, .stall0, .stall1, .grant]) ∧
      (count ≤ read + 1 ∨ slotReason ⟨d, true⟩ = none ∧ kindOf d = 14 ∧ targetOf d = 0 →
        t.stl.part = .ready ∧ t.stl.image = none) ∧
      (read + 1 < count → ¬(slotReason ⟨d, true⟩ = none ∧ kindOf d = 14 ∧ targetOf d = 0) →
        t.stl.part = .loading ∧ t.stl.image = some (.records count (read + 1))) ∧
      ((∃ r, slotReason ⟨d, true⟩ = some r) →
        (s.begin dt).changesOnly t [.stl, .crec, .evu, .rpw, .line, .warb, .stall0, .stall1, .grant])
end

