-- ==== Sys2Proof/Laws/State.lean ====
section
/-! SUPPORT. What each named update of State does to each field (every lemma true by rfl), and the same for the shared
operations that touch one block. No later proof unfolds a record update. -/

namespace Sys2Proof.Machine

/-! ### setTime -/

@[simp] theorem State.setTime_time (s : State) (v : Time) : (s.setTime v).time = v := rfl
@[simp] theorem State.setTime_stl (s : State) (v : Time) : (s.setTime v).stl = s.stl := rfl
@[simp] theorem State.setTime_pb (s : State) (v : Time) : (s.setTime v).pb = s.pb := rfl
@[simp] theorem State.setTime_llr (s : State) (v : Time) : (s.setTime v).llr = s.llr := rfl
@[simp] theorem State.setTime_pmon (s : State) (v : Time) : (s.setTime v).pmon = s.pmon := rfl
@[simp] theorem State.setTime_ptrk (s : State) (v : Time) : (s.setTime v).ptrk = s.ptrk := rfl
@[simp] theorem State.setTime_fest (s : State) (v : Time) : (s.setTime v).fest = s.fest := rfl
@[simp] theorem State.setTime_mept (s : State) (v : Time) : (s.setTime v).mept = s.mept := rfl
@[simp] theorem State.setTime_psto (s : State) (v : Time) : (s.setTime v).psto = s.psto := rfl
@[simp] theorem State.setTime_bpln (s : State) (v : Time) : (s.setTime v).bpln = s.bpln := rfl
@[simp] theorem State.setTime_lmem (s : State) (v : Time) : (s.setTime v).lmem = s.lmem := rfl
@[simp] theorem State.setTime_ctxs (s : State) (v : Time) : (s.setTime v).ctxs = s.ctxs := rfl
@[simp] theorem State.setTime_warb (s : State) (v : Time) : (s.setTime v).warb = s.warb := rfl
@[simp] theorem State.setTime_crec (s : State) (v : Time) : (s.setTime v).crec = s.crec := rfl
@[simp] theorem State.setTime_evu (s : State) (v : Time) : (s.setTime v).evu = s.evu := rfl
@[simp] theorem State.setTime_rpw (s : State) (v : Time) : (s.setTime v).rpw = s.rpw := rfl
@[simp] theorem State.setTime_lineWait (s : State) (v : Time) : (s.setTime v).lineWait = s.lineWait := rfl
@[simp] theorem State.setTime_outputs (s : State) (v : Time) : (s.setTime v).outputs = s.outputs := rfl
@[simp] theorem State.setTime_pending (s : State) (v : Time) : (s.setTime v).pending = s.pending := rfl

/-! ### setStl -/

@[simp] theorem State.setStl_time (s : State) (v : StoreLoader) : (s.setStl v).time = s.time := rfl
@[simp] theorem State.setStl_stl (s : State) (v : StoreLoader) : (s.setStl v).stl = v := rfl
@[simp] theorem State.setStl_pb (s : State) (v : StoreLoader) : (s.setStl v).pb = s.pb := rfl
@[simp] theorem State.setStl_llr (s : State) (v : StoreLoader) : (s.setStl v).llr = s.llr := rfl
@[simp] theorem State.setStl_pmon (s : State) (v : StoreLoader) : (s.setStl v).pmon = s.pmon := rfl
@[simp] theorem State.setStl_ptrk (s : State) (v : StoreLoader) : (s.setStl v).ptrk = s.ptrk := rfl
@[simp] theorem State.setStl_fest (s : State) (v : StoreLoader) : (s.setStl v).fest = s.fest := rfl
@[simp] theorem State.setStl_mept (s : State) (v : StoreLoader) : (s.setStl v).mept = s.mept := rfl
@[simp] theorem State.setStl_psto (s : State) (v : StoreLoader) : (s.setStl v).psto = s.psto := rfl
@[simp] theorem State.setStl_bpln (s : State) (v : StoreLoader) : (s.setStl v).bpln = s.bpln := rfl
@[simp] theorem State.setStl_lmem (s : State) (v : StoreLoader) : (s.setStl v).lmem = s.lmem := rfl
@[simp] theorem State.setStl_ctxs (s : State) (v : StoreLoader) : (s.setStl v).ctxs = s.ctxs := rfl
@[simp] theorem State.setStl_warb (s : State) (v : StoreLoader) : (s.setStl v).warb = s.warb := rfl
@[simp] theorem State.setStl_crec (s : State) (v : StoreLoader) : (s.setStl v).crec = s.crec := rfl
@[simp] theorem State.setStl_evu (s : State) (v : StoreLoader) : (s.setStl v).evu = s.evu := rfl
@[simp] theorem State.setStl_rpw (s : State) (v : StoreLoader) : (s.setStl v).rpw = s.rpw := rfl
@[simp] theorem State.setStl_lineWait (s : State) (v : StoreLoader) : (s.setStl v).lineWait = s.lineWait := rfl
@[simp] theorem State.setStl_outputs (s : State) (v : StoreLoader) : (s.setStl v).outputs = s.outputs := rfl
@[simp] theorem State.setStl_pending (s : State) (v : StoreLoader) : (s.setStl v).pending = s.pending := rfl

/-! ### setPb -/

@[simp] theorem State.setPb_time (s : State) (v : PortBridge) : (s.setPb v).time = s.time := rfl
@[simp] theorem State.setPb_stl (s : State) (v : PortBridge) : (s.setPb v).stl = s.stl := rfl
@[simp] theorem State.setPb_pb (s : State) (v : PortBridge) : (s.setPb v).pb = v := rfl
@[simp] theorem State.setPb_llr (s : State) (v : PortBridge) : (s.setPb v).llr = s.llr := rfl
@[simp] theorem State.setPb_pmon (s : State) (v : PortBridge) : (s.setPb v).pmon = s.pmon := rfl
@[simp] theorem State.setPb_ptrk (s : State) (v : PortBridge) : (s.setPb v).ptrk = s.ptrk := rfl
@[simp] theorem State.setPb_fest (s : State) (v : PortBridge) : (s.setPb v).fest = s.fest := rfl
@[simp] theorem State.setPb_mept (s : State) (v : PortBridge) : (s.setPb v).mept = s.mept := rfl
@[simp] theorem State.setPb_psto (s : State) (v : PortBridge) : (s.setPb v).psto = s.psto := rfl
@[simp] theorem State.setPb_bpln (s : State) (v : PortBridge) : (s.setPb v).bpln = s.bpln := rfl
@[simp] theorem State.setPb_lmem (s : State) (v : PortBridge) : (s.setPb v).lmem = s.lmem := rfl
@[simp] theorem State.setPb_ctxs (s : State) (v : PortBridge) : (s.setPb v).ctxs = s.ctxs := rfl
@[simp] theorem State.setPb_warb (s : State) (v : PortBridge) : (s.setPb v).warb = s.warb := rfl
@[simp] theorem State.setPb_crec (s : State) (v : PortBridge) : (s.setPb v).crec = s.crec := rfl
@[simp] theorem State.setPb_evu (s : State) (v : PortBridge) : (s.setPb v).evu = s.evu := rfl
@[simp] theorem State.setPb_rpw (s : State) (v : PortBridge) : (s.setPb v).rpw = s.rpw := rfl
@[simp] theorem State.setPb_lineWait (s : State) (v : PortBridge) : (s.setPb v).lineWait = s.lineWait := rfl
@[simp] theorem State.setPb_outputs (s : State) (v : PortBridge) : (s.setPb v).outputs = s.outputs := rfl
@[simp] theorem State.setPb_pending (s : State) (v : PortBridge) : (s.setPb v).pending = s.pending := rfl

/-! ### setLlr -/

@[simp] theorem State.setLlr_time (s : State) (v : LineReceiver) : (s.setLlr v).time = s.time := rfl
@[simp] theorem State.setLlr_stl (s : State) (v : LineReceiver) : (s.setLlr v).stl = s.stl := rfl
@[simp] theorem State.setLlr_pb (s : State) (v : LineReceiver) : (s.setLlr v).pb = s.pb := rfl
@[simp] theorem State.setLlr_llr (s : State) (v : LineReceiver) : (s.setLlr v).llr = v := rfl
@[simp] theorem State.setLlr_pmon (s : State) (v : LineReceiver) : (s.setLlr v).pmon = s.pmon := rfl
@[simp] theorem State.setLlr_ptrk (s : State) (v : LineReceiver) : (s.setLlr v).ptrk = s.ptrk := rfl
@[simp] theorem State.setLlr_fest (s : State) (v : LineReceiver) : (s.setLlr v).fest = s.fest := rfl
@[simp] theorem State.setLlr_mept (s : State) (v : LineReceiver) : (s.setLlr v).mept = s.mept := rfl
@[simp] theorem State.setLlr_psto (s : State) (v : LineReceiver) : (s.setLlr v).psto = s.psto := rfl
@[simp] theorem State.setLlr_bpln (s : State) (v : LineReceiver) : (s.setLlr v).bpln = s.bpln := rfl
@[simp] theorem State.setLlr_lmem (s : State) (v : LineReceiver) : (s.setLlr v).lmem = s.lmem := rfl
@[simp] theorem State.setLlr_ctxs (s : State) (v : LineReceiver) : (s.setLlr v).ctxs = s.ctxs := rfl
@[simp] theorem State.setLlr_warb (s : State) (v : LineReceiver) : (s.setLlr v).warb = s.warb := rfl
@[simp] theorem State.setLlr_crec (s : State) (v : LineReceiver) : (s.setLlr v).crec = s.crec := rfl
@[simp] theorem State.setLlr_evu (s : State) (v : LineReceiver) : (s.setLlr v).evu = s.evu := rfl
@[simp] theorem State.setLlr_rpw (s : State) (v : LineReceiver) : (s.setLlr v).rpw = s.rpw := rfl
@[simp] theorem State.setLlr_lineWait (s : State) (v : LineReceiver) : (s.setLlr v).lineWait = s.lineWait := rfl
@[simp] theorem State.setLlr_outputs (s : State) (v : LineReceiver) : (s.setLlr v).outputs = s.outputs := rfl
@[simp] theorem State.setLlr_pending (s : State) (v : LineReceiver) : (s.setLlr v).pending = s.pending := rfl

/-! ### setPmon -/

@[simp] theorem State.setPmon_time (s : State) (v : PositionMonitor) : (s.setPmon v).time = s.time := rfl
@[simp] theorem State.setPmon_stl (s : State) (v : PositionMonitor) : (s.setPmon v).stl = s.stl := rfl
@[simp] theorem State.setPmon_pb (s : State) (v : PositionMonitor) : (s.setPmon v).pb = s.pb := rfl
@[simp] theorem State.setPmon_llr (s : State) (v : PositionMonitor) : (s.setPmon v).llr = s.llr := rfl
@[simp] theorem State.setPmon_pmon (s : State) (v : PositionMonitor) : (s.setPmon v).pmon = v := rfl
@[simp] theorem State.setPmon_ptrk (s : State) (v : PositionMonitor) : (s.setPmon v).ptrk = s.ptrk := rfl
@[simp] theorem State.setPmon_fest (s : State) (v : PositionMonitor) : (s.setPmon v).fest = s.fest := rfl
@[simp] theorem State.setPmon_mept (s : State) (v : PositionMonitor) : (s.setPmon v).mept = s.mept := rfl
@[simp] theorem State.setPmon_psto (s : State) (v : PositionMonitor) : (s.setPmon v).psto = s.psto := rfl
@[simp] theorem State.setPmon_bpln (s : State) (v : PositionMonitor) : (s.setPmon v).bpln = s.bpln := rfl
@[simp] theorem State.setPmon_lmem (s : State) (v : PositionMonitor) : (s.setPmon v).lmem = s.lmem := rfl
@[simp] theorem State.setPmon_ctxs (s : State) (v : PositionMonitor) : (s.setPmon v).ctxs = s.ctxs := rfl
@[simp] theorem State.setPmon_warb (s : State) (v : PositionMonitor) : (s.setPmon v).warb = s.warb := rfl
@[simp] theorem State.setPmon_crec (s : State) (v : PositionMonitor) : (s.setPmon v).crec = s.crec := rfl
@[simp] theorem State.setPmon_evu (s : State) (v : PositionMonitor) : (s.setPmon v).evu = s.evu := rfl
@[simp] theorem State.setPmon_rpw (s : State) (v : PositionMonitor) : (s.setPmon v).rpw = s.rpw := rfl
@[simp] theorem State.setPmon_lineWait (s : State) (v : PositionMonitor) : (s.setPmon v).lineWait = s.lineWait := rfl
@[simp] theorem State.setPmon_outputs (s : State) (v : PositionMonitor) : (s.setPmon v).outputs = s.outputs := rfl
@[simp] theorem State.setPmon_pending (s : State) (v : PositionMonitor) : (s.setPmon v).pending = s.pending := rfl

/-! ### setPtrk -/

@[simp] theorem State.setPtrk_time (s : State) (v : Track) : (s.setPtrk v).time = s.time := rfl
@[simp] theorem State.setPtrk_stl (s : State) (v : Track) : (s.setPtrk v).stl = s.stl := rfl
@[simp] theorem State.setPtrk_pb (s : State) (v : Track) : (s.setPtrk v).pb = s.pb := rfl
@[simp] theorem State.setPtrk_llr (s : State) (v : Track) : (s.setPtrk v).llr = s.llr := rfl
@[simp] theorem State.setPtrk_pmon (s : State) (v : Track) : (s.setPtrk v).pmon = s.pmon := rfl
@[simp] theorem State.setPtrk_ptrk (s : State) (v : Track) : (s.setPtrk v).ptrk = v := rfl
@[simp] theorem State.setPtrk_fest (s : State) (v : Track) : (s.setPtrk v).fest = s.fest := rfl
@[simp] theorem State.setPtrk_mept (s : State) (v : Track) : (s.setPtrk v).mept = s.mept := rfl
@[simp] theorem State.setPtrk_psto (s : State) (v : Track) : (s.setPtrk v).psto = s.psto := rfl
@[simp] theorem State.setPtrk_bpln (s : State) (v : Track) : (s.setPtrk v).bpln = s.bpln := rfl
@[simp] theorem State.setPtrk_lmem (s : State) (v : Track) : (s.setPtrk v).lmem = s.lmem := rfl
@[simp] theorem State.setPtrk_ctxs (s : State) (v : Track) : (s.setPtrk v).ctxs = s.ctxs := rfl
@[simp] theorem State.setPtrk_warb (s : State) (v : Track) : (s.setPtrk v).warb = s.warb := rfl
@[simp] theorem State.setPtrk_crec (s : State) (v : Track) : (s.setPtrk v).crec = s.crec := rfl
@[simp] theorem State.setPtrk_evu (s : State) (v : Track) : (s.setPtrk v).evu = s.evu := rfl
@[simp] theorem State.setPtrk_rpw (s : State) (v : Track) : (s.setPtrk v).rpw = s.rpw := rfl
@[simp] theorem State.setPtrk_lineWait (s : State) (v : Track) : (s.setPtrk v).lineWait = s.lineWait := rfl
@[simp] theorem State.setPtrk_outputs (s : State) (v : Track) : (s.setPtrk v).outputs = s.outputs := rfl
@[simp] theorem State.setPtrk_pending (s : State) (v : Track) : (s.setPtrk v).pending = s.pending := rfl

/-! ### setFest -/

@[simp] theorem State.setFest_time (s : State) (v : Estimator) : (s.setFest v).time = s.time := rfl
@[simp] theorem State.setFest_stl (s : State) (v : Estimator) : (s.setFest v).stl = s.stl := rfl
@[simp] theorem State.setFest_pb (s : State) (v : Estimator) : (s.setFest v).pb = s.pb := rfl
@[simp] theorem State.setFest_llr (s : State) (v : Estimator) : (s.setFest v).llr = s.llr := rfl
@[simp] theorem State.setFest_pmon (s : State) (v : Estimator) : (s.setFest v).pmon = s.pmon := rfl
@[simp] theorem State.setFest_ptrk (s : State) (v : Estimator) : (s.setFest v).ptrk = s.ptrk := rfl
@[simp] theorem State.setFest_fest (s : State) (v : Estimator) : (s.setFest v).fest = v := rfl
@[simp] theorem State.setFest_mept (s : State) (v : Estimator) : (s.setFest v).mept = s.mept := rfl
@[simp] theorem State.setFest_psto (s : State) (v : Estimator) : (s.setFest v).psto = s.psto := rfl
@[simp] theorem State.setFest_bpln (s : State) (v : Estimator) : (s.setFest v).bpln = s.bpln := rfl
@[simp] theorem State.setFest_lmem (s : State) (v : Estimator) : (s.setFest v).lmem = s.lmem := rfl
@[simp] theorem State.setFest_ctxs (s : State) (v : Estimator) : (s.setFest v).ctxs = s.ctxs := rfl
@[simp] theorem State.setFest_warb (s : State) (v : Estimator) : (s.setFest v).warb = s.warb := rfl
@[simp] theorem State.setFest_crec (s : State) (v : Estimator) : (s.setFest v).crec = s.crec := rfl
@[simp] theorem State.setFest_evu (s : State) (v : Estimator) : (s.setFest v).evu = s.evu := rfl
@[simp] theorem State.setFest_rpw (s : State) (v : Estimator) : (s.setFest v).rpw = s.rpw := rfl
@[simp] theorem State.setFest_lineWait (s : State) (v : Estimator) : (s.setFest v).lineWait = s.lineWait := rfl
@[simp] theorem State.setFest_outputs (s : State) (v : Estimator) : (s.setFest v).outputs = s.outputs := rfl
@[simp] theorem State.setFest_pending (s : State) (v : Estimator) : (s.setFest v).pending = s.pending := rfl

/-! ### setMept -/

@[simp] theorem State.setMept_time (s : State) (v : EpochTable) : (s.setMept v).time = s.time := rfl
@[simp] theorem State.setMept_stl (s : State) (v : EpochTable) : (s.setMept v).stl = s.stl := rfl
@[simp] theorem State.setMept_pb (s : State) (v : EpochTable) : (s.setMept v).pb = s.pb := rfl
@[simp] theorem State.setMept_llr (s : State) (v : EpochTable) : (s.setMept v).llr = s.llr := rfl
@[simp] theorem State.setMept_pmon (s : State) (v : EpochTable) : (s.setMept v).pmon = s.pmon := rfl
@[simp] theorem State.setMept_ptrk (s : State) (v : EpochTable) : (s.setMept v).ptrk = s.ptrk := rfl
@[simp] theorem State.setMept_fest (s : State) (v : EpochTable) : (s.setMept v).fest = s.fest := rfl
@[simp] theorem State.setMept_mept (s : State) (v : EpochTable) : (s.setMept v).mept = v := rfl
@[simp] theorem State.setMept_psto (s : State) (v : EpochTable) : (s.setMept v).psto = s.psto := rfl
@[simp] theorem State.setMept_bpln (s : State) (v : EpochTable) : (s.setMept v).bpln = s.bpln := rfl
@[simp] theorem State.setMept_lmem (s : State) (v : EpochTable) : (s.setMept v).lmem = s.lmem := rfl
@[simp] theorem State.setMept_ctxs (s : State) (v : EpochTable) : (s.setMept v).ctxs = s.ctxs := rfl
@[simp] theorem State.setMept_warb (s : State) (v : EpochTable) : (s.setMept v).warb = s.warb := rfl
@[simp] theorem State.setMept_crec (s : State) (v : EpochTable) : (s.setMept v).crec = s.crec := rfl
@[simp] theorem State.setMept_evu (s : State) (v : EpochTable) : (s.setMept v).evu = s.evu := rfl
@[simp] theorem State.setMept_rpw (s : State) (v : EpochTable) : (s.setMept v).rpw = s.rpw := rfl
@[simp] theorem State.setMept_lineWait (s : State) (v : EpochTable) : (s.setMept v).lineWait = s.lineWait := rfl
@[simp] theorem State.setMept_outputs (s : State) (v : EpochTable) : (s.setMept v).outputs = s.outputs := rfl
@[simp] theorem State.setMept_pending (s : State) (v : EpochTable) : (s.setMept v).pending = s.pending := rfl

/-! ### setPsto -/

@[simp] theorem State.setPsto_time (s : State) (v : ProfileStore) : (s.setPsto v).time = s.time := rfl
@[simp] theorem State.setPsto_stl (s : State) (v : ProfileStore) : (s.setPsto v).stl = s.stl := rfl
@[simp] theorem State.setPsto_pb (s : State) (v : ProfileStore) : (s.setPsto v).pb = s.pb := rfl
@[simp] theorem State.setPsto_llr (s : State) (v : ProfileStore) : (s.setPsto v).llr = s.llr := rfl
@[simp] theorem State.setPsto_pmon (s : State) (v : ProfileStore) : (s.setPsto v).pmon = s.pmon := rfl
@[simp] theorem State.setPsto_ptrk (s : State) (v : ProfileStore) : (s.setPsto v).ptrk = s.ptrk := rfl
@[simp] theorem State.setPsto_fest (s : State) (v : ProfileStore) : (s.setPsto v).fest = s.fest := rfl
@[simp] theorem State.setPsto_mept (s : State) (v : ProfileStore) : (s.setPsto v).mept = s.mept := rfl
@[simp] theorem State.setPsto_psto (s : State) (v : ProfileStore) : (s.setPsto v).psto = v := rfl
@[simp] theorem State.setPsto_bpln (s : State) (v : ProfileStore) : (s.setPsto v).bpln = s.bpln := rfl
@[simp] theorem State.setPsto_lmem (s : State) (v : ProfileStore) : (s.setPsto v).lmem = s.lmem := rfl
@[simp] theorem State.setPsto_ctxs (s : State) (v : ProfileStore) : (s.setPsto v).ctxs = s.ctxs := rfl
@[simp] theorem State.setPsto_warb (s : State) (v : ProfileStore) : (s.setPsto v).warb = s.warb := rfl
@[simp] theorem State.setPsto_crec (s : State) (v : ProfileStore) : (s.setPsto v).crec = s.crec := rfl
@[simp] theorem State.setPsto_evu (s : State) (v : ProfileStore) : (s.setPsto v).evu = s.evu := rfl
@[simp] theorem State.setPsto_rpw (s : State) (v : ProfileStore) : (s.setPsto v).rpw = s.rpw := rfl
@[simp] theorem State.setPsto_lineWait (s : State) (v : ProfileStore) : (s.setPsto v).lineWait = s.lineWait := rfl
@[simp] theorem State.setPsto_outputs (s : State) (v : ProfileStore) : (s.setPsto v).outputs = s.outputs := rfl
@[simp] theorem State.setPsto_pending (s : State) (v : ProfileStore) : (s.setPsto v).pending = s.pending := rfl

/-! ### setBpln -/

@[simp] theorem State.setBpln_time (s : State) (v : Planner) : (s.setBpln v).time = s.time := rfl
@[simp] theorem State.setBpln_stl (s : State) (v : Planner) : (s.setBpln v).stl = s.stl := rfl
@[simp] theorem State.setBpln_pb (s : State) (v : Planner) : (s.setBpln v).pb = s.pb := rfl
@[simp] theorem State.setBpln_llr (s : State) (v : Planner) : (s.setBpln v).llr = s.llr := rfl
@[simp] theorem State.setBpln_pmon (s : State) (v : Planner) : (s.setBpln v).pmon = s.pmon := rfl
@[simp] theorem State.setBpln_ptrk (s : State) (v : Planner) : (s.setBpln v).ptrk = s.ptrk := rfl
@[simp] theorem State.setBpln_fest (s : State) (v : Planner) : (s.setBpln v).fest = s.fest := rfl
@[simp] theorem State.setBpln_mept (s : State) (v : Planner) : (s.setBpln v).mept = s.mept := rfl
@[simp] theorem State.setBpln_psto (s : State) (v : Planner) : (s.setBpln v).psto = s.psto := rfl
@[simp] theorem State.setBpln_bpln (s : State) (v : Planner) : (s.setBpln v).bpln = v := rfl
@[simp] theorem State.setBpln_lmem (s : State) (v : Planner) : (s.setBpln v).lmem = s.lmem := rfl
@[simp] theorem State.setBpln_ctxs (s : State) (v : Planner) : (s.setBpln v).ctxs = s.ctxs := rfl
@[simp] theorem State.setBpln_warb (s : State) (v : Planner) : (s.setBpln v).warb = s.warb := rfl
@[simp] theorem State.setBpln_crec (s : State) (v : Planner) : (s.setBpln v).crec = s.crec := rfl
@[simp] theorem State.setBpln_evu (s : State) (v : Planner) : (s.setBpln v).evu = s.evu := rfl
@[simp] theorem State.setBpln_rpw (s : State) (v : Planner) : (s.setBpln v).rpw = s.rpw := rfl
@[simp] theorem State.setBpln_lineWait (s : State) (v : Planner) : (s.setBpln v).lineWait = s.lineWait := rfl
@[simp] theorem State.setBpln_outputs (s : State) (v : Planner) : (s.setBpln v).outputs = s.outputs := rfl
@[simp] theorem State.setBpln_pending (s : State) (v : Planner) : (s.setBpln v).pending = s.pending := rfl

/-! ### setLmem -/

@[simp] theorem State.setLmem_time (s : State) (v : LineMemory) : (s.setLmem v).time = s.time := rfl
@[simp] theorem State.setLmem_stl (s : State) (v : LineMemory) : (s.setLmem v).stl = s.stl := rfl
@[simp] theorem State.setLmem_pb (s : State) (v : LineMemory) : (s.setLmem v).pb = s.pb := rfl
@[simp] theorem State.setLmem_llr (s : State) (v : LineMemory) : (s.setLmem v).llr = s.llr := rfl
@[simp] theorem State.setLmem_pmon (s : State) (v : LineMemory) : (s.setLmem v).pmon = s.pmon := rfl
@[simp] theorem State.setLmem_ptrk (s : State) (v : LineMemory) : (s.setLmem v).ptrk = s.ptrk := rfl
@[simp] theorem State.setLmem_fest (s : State) (v : LineMemory) : (s.setLmem v).fest = s.fest := rfl
@[simp] theorem State.setLmem_mept (s : State) (v : LineMemory) : (s.setLmem v).mept = s.mept := rfl
@[simp] theorem State.setLmem_psto (s : State) (v : LineMemory) : (s.setLmem v).psto = s.psto := rfl
@[simp] theorem State.setLmem_bpln (s : State) (v : LineMemory) : (s.setLmem v).bpln = s.bpln := rfl
@[simp] theorem State.setLmem_lmem (s : State) (v : LineMemory) : (s.setLmem v).lmem = v := rfl
@[simp] theorem State.setLmem_ctxs (s : State) (v : LineMemory) : (s.setLmem v).ctxs = s.ctxs := rfl
@[simp] theorem State.setLmem_warb (s : State) (v : LineMemory) : (s.setLmem v).warb = s.warb := rfl
@[simp] theorem State.setLmem_crec (s : State) (v : LineMemory) : (s.setLmem v).crec = s.crec := rfl
@[simp] theorem State.setLmem_evu (s : State) (v : LineMemory) : (s.setLmem v).evu = s.evu := rfl
@[simp] theorem State.setLmem_rpw (s : State) (v : LineMemory) : (s.setLmem v).rpw = s.rpw := rfl
@[simp] theorem State.setLmem_lineWait (s : State) (v : LineMemory) : (s.setLmem v).lineWait = s.lineWait := rfl
@[simp] theorem State.setLmem_outputs (s : State) (v : LineMemory) : (s.setLmem v).outputs = s.outputs := rfl
@[simp] theorem State.setLmem_pending (s : State) (v : LineMemory) : (s.setLmem v).pending = s.pending := rfl

/-! ### setCtxs -/

@[simp] theorem State.setCtxs_time (s : State) (v : Both Context) : (s.setCtxs v).time = s.time := rfl
@[simp] theorem State.setCtxs_stl (s : State) (v : Both Context) : (s.setCtxs v).stl = s.stl := rfl
@[simp] theorem State.setCtxs_pb (s : State) (v : Both Context) : (s.setCtxs v).pb = s.pb := rfl
@[simp] theorem State.setCtxs_llr (s : State) (v : Both Context) : (s.setCtxs v).llr = s.llr := rfl
@[simp] theorem State.setCtxs_pmon (s : State) (v : Both Context) : (s.setCtxs v).pmon = s.pmon := rfl
@[simp] theorem State.setCtxs_ptrk (s : State) (v : Both Context) : (s.setCtxs v).ptrk = s.ptrk := rfl
@[simp] theorem State.setCtxs_fest (s : State) (v : Both Context) : (s.setCtxs v).fest = s.fest := rfl
@[simp] theorem State.setCtxs_mept (s : State) (v : Both Context) : (s.setCtxs v).mept = s.mept := rfl
@[simp] theorem State.setCtxs_psto (s : State) (v : Both Context) : (s.setCtxs v).psto = s.psto := rfl
@[simp] theorem State.setCtxs_bpln (s : State) (v : Both Context) : (s.setCtxs v).bpln = s.bpln := rfl
@[simp] theorem State.setCtxs_lmem (s : State) (v : Both Context) : (s.setCtxs v).lmem = s.lmem := rfl
@[simp] theorem State.setCtxs_ctxs (s : State) (v : Both Context) : (s.setCtxs v).ctxs = v := rfl
@[simp] theorem State.setCtxs_warb (s : State) (v : Both Context) : (s.setCtxs v).warb = s.warb := rfl
@[simp] theorem State.setCtxs_crec (s : State) (v : Both Context) : (s.setCtxs v).crec = s.crec := rfl
@[simp] theorem State.setCtxs_evu (s : State) (v : Both Context) : (s.setCtxs v).evu = s.evu := rfl
@[simp] theorem State.setCtxs_rpw (s : State) (v : Both Context) : (s.setCtxs v).rpw = s.rpw := rfl
@[simp] theorem State.setCtxs_lineWait (s : State) (v : Both Context) : (s.setCtxs v).lineWait = s.lineWait := rfl
@[simp] theorem State.setCtxs_outputs (s : State) (v : Both Context) : (s.setCtxs v).outputs = s.outputs := rfl
@[simp] theorem State.setCtxs_pending (s : State) (v : Both Context) : (s.setCtxs v).pending = s.pending := rfl

/-! ### setWarb -/

@[simp] theorem State.setWarb_time (s : State) (v : Arbiter) : (s.setWarb v).time = s.time := rfl
@[simp] theorem State.setWarb_stl (s : State) (v : Arbiter) : (s.setWarb v).stl = s.stl := rfl
@[simp] theorem State.setWarb_pb (s : State) (v : Arbiter) : (s.setWarb v).pb = s.pb := rfl
@[simp] theorem State.setWarb_llr (s : State) (v : Arbiter) : (s.setWarb v).llr = s.llr := rfl
@[simp] theorem State.setWarb_pmon (s : State) (v : Arbiter) : (s.setWarb v).pmon = s.pmon := rfl
@[simp] theorem State.setWarb_ptrk (s : State) (v : Arbiter) : (s.setWarb v).ptrk = s.ptrk := rfl
@[simp] theorem State.setWarb_fest (s : State) (v : Arbiter) : (s.setWarb v).fest = s.fest := rfl
@[simp] theorem State.setWarb_mept (s : State) (v : Arbiter) : (s.setWarb v).mept = s.mept := rfl
@[simp] theorem State.setWarb_psto (s : State) (v : Arbiter) : (s.setWarb v).psto = s.psto := rfl
@[simp] theorem State.setWarb_bpln (s : State) (v : Arbiter) : (s.setWarb v).bpln = s.bpln := rfl
@[simp] theorem State.setWarb_lmem (s : State) (v : Arbiter) : (s.setWarb v).lmem = s.lmem := rfl
@[simp] theorem State.setWarb_ctxs (s : State) (v : Arbiter) : (s.setWarb v).ctxs = s.ctxs := rfl
@[simp] theorem State.setWarb_warb (s : State) (v : Arbiter) : (s.setWarb v).warb = v := rfl
@[simp] theorem State.setWarb_crec (s : State) (v : Arbiter) : (s.setWarb v).crec = s.crec := rfl
@[simp] theorem State.setWarb_evu (s : State) (v : Arbiter) : (s.setWarb v).evu = s.evu := rfl
@[simp] theorem State.setWarb_rpw (s : State) (v : Arbiter) : (s.setWarb v).rpw = s.rpw := rfl
@[simp] theorem State.setWarb_lineWait (s : State) (v : Arbiter) : (s.setWarb v).lineWait = s.lineWait := rfl
@[simp] theorem State.setWarb_outputs (s : State) (v : Arbiter) : (s.setWarb v).outputs = s.outputs := rfl
@[simp] theorem State.setWarb_pending (s : State) (v : Arbiter) : (s.setWarb v).pending = s.pending := rfl

/-! ### setCrec -/

@[simp] theorem State.setCrec_time (s : State) (v : ControlUnit) : (s.setCrec v).time = s.time := rfl
@[simp] theorem State.setCrec_stl (s : State) (v : ControlUnit) : (s.setCrec v).stl = s.stl := rfl
@[simp] theorem State.setCrec_pb (s : State) (v : ControlUnit) : (s.setCrec v).pb = s.pb := rfl
@[simp] theorem State.setCrec_llr (s : State) (v : ControlUnit) : (s.setCrec v).llr = s.llr := rfl
@[simp] theorem State.setCrec_pmon (s : State) (v : ControlUnit) : (s.setCrec v).pmon = s.pmon := rfl
@[simp] theorem State.setCrec_ptrk (s : State) (v : ControlUnit) : (s.setCrec v).ptrk = s.ptrk := rfl
@[simp] theorem State.setCrec_fest (s : State) (v : ControlUnit) : (s.setCrec v).fest = s.fest := rfl
@[simp] theorem State.setCrec_mept (s : State) (v : ControlUnit) : (s.setCrec v).mept = s.mept := rfl
@[simp] theorem State.setCrec_psto (s : State) (v : ControlUnit) : (s.setCrec v).psto = s.psto := rfl
@[simp] theorem State.setCrec_bpln (s : State) (v : ControlUnit) : (s.setCrec v).bpln = s.bpln := rfl
@[simp] theorem State.setCrec_lmem (s : State) (v : ControlUnit) : (s.setCrec v).lmem = s.lmem := rfl
@[simp] theorem State.setCrec_ctxs (s : State) (v : ControlUnit) : (s.setCrec v).ctxs = s.ctxs := rfl
@[simp] theorem State.setCrec_warb (s : State) (v : ControlUnit) : (s.setCrec v).warb = s.warb := rfl
@[simp] theorem State.setCrec_crec (s : State) (v : ControlUnit) : (s.setCrec v).crec = v := rfl
@[simp] theorem State.setCrec_evu (s : State) (v : ControlUnit) : (s.setCrec v).evu = s.evu := rfl
@[simp] theorem State.setCrec_rpw (s : State) (v : ControlUnit) : (s.setCrec v).rpw = s.rpw := rfl
@[simp] theorem State.setCrec_lineWait (s : State) (v : ControlUnit) : (s.setCrec v).lineWait = s.lineWait := rfl
@[simp] theorem State.setCrec_outputs (s : State) (v : ControlUnit) : (s.setCrec v).outputs = s.outputs := rfl
@[simp] theorem State.setCrec_pending (s : State) (v : ControlUnit) : (s.setCrec v).pending = s.pending := rfl

/-! ### setEvu -/

@[simp] theorem State.setEvu_time (s : State) (v : EventUnit) : (s.setEvu v).time = s.time := rfl
@[simp] theorem State.setEvu_stl (s : State) (v : EventUnit) : (s.setEvu v).stl = s.stl := rfl
@[simp] theorem State.setEvu_pb (s : State) (v : EventUnit) : (s.setEvu v).pb = s.pb := rfl
@[simp] theorem State.setEvu_llr (s : State) (v : EventUnit) : (s.setEvu v).llr = s.llr := rfl
@[simp] theorem State.setEvu_pmon (s : State) (v : EventUnit) : (s.setEvu v).pmon = s.pmon := rfl
@[simp] theorem State.setEvu_ptrk (s : State) (v : EventUnit) : (s.setEvu v).ptrk = s.ptrk := rfl
@[simp] theorem State.setEvu_fest (s : State) (v : EventUnit) : (s.setEvu v).fest = s.fest := rfl
@[simp] theorem State.setEvu_mept (s : State) (v : EventUnit) : (s.setEvu v).mept = s.mept := rfl
@[simp] theorem State.setEvu_psto (s : State) (v : EventUnit) : (s.setEvu v).psto = s.psto := rfl
@[simp] theorem State.setEvu_bpln (s : State) (v : EventUnit) : (s.setEvu v).bpln = s.bpln := rfl
@[simp] theorem State.setEvu_lmem (s : State) (v : EventUnit) : (s.setEvu v).lmem = s.lmem := rfl
@[simp] theorem State.setEvu_ctxs (s : State) (v : EventUnit) : (s.setEvu v).ctxs = s.ctxs := rfl
@[simp] theorem State.setEvu_warb (s : State) (v : EventUnit) : (s.setEvu v).warb = s.warb := rfl
@[simp] theorem State.setEvu_crec (s : State) (v : EventUnit) : (s.setEvu v).crec = s.crec := rfl
@[simp] theorem State.setEvu_evu (s : State) (v : EventUnit) : (s.setEvu v).evu = v := rfl
@[simp] theorem State.setEvu_rpw (s : State) (v : EventUnit) : (s.setEvu v).rpw = s.rpw := rfl
@[simp] theorem State.setEvu_lineWait (s : State) (v : EventUnit) : (s.setEvu v).lineWait = s.lineWait := rfl
@[simp] theorem State.setEvu_outputs (s : State) (v : EventUnit) : (s.setEvu v).outputs = s.outputs := rfl
@[simp] theorem State.setEvu_pending (s : State) (v : EventUnit) : (s.setEvu v).pending = s.pending := rfl

/-! ### setRpw -/

@[simp] theorem State.setRpw_time (s : State) (v : ReportWriter) : (s.setRpw v).time = s.time := rfl
@[simp] theorem State.setRpw_stl (s : State) (v : ReportWriter) : (s.setRpw v).stl = s.stl := rfl
@[simp] theorem State.setRpw_pb (s : State) (v : ReportWriter) : (s.setRpw v).pb = s.pb := rfl
@[simp] theorem State.setRpw_llr (s : State) (v : ReportWriter) : (s.setRpw v).llr = s.llr := rfl
@[simp] theorem State.setRpw_pmon (s : State) (v : ReportWriter) : (s.setRpw v).pmon = s.pmon := rfl
@[simp] theorem State.setRpw_ptrk (s : State) (v : ReportWriter) : (s.setRpw v).ptrk = s.ptrk := rfl
@[simp] theorem State.setRpw_fest (s : State) (v : ReportWriter) : (s.setRpw v).fest = s.fest := rfl
@[simp] theorem State.setRpw_mept (s : State) (v : ReportWriter) : (s.setRpw v).mept = s.mept := rfl
@[simp] theorem State.setRpw_psto (s : State) (v : ReportWriter) : (s.setRpw v).psto = s.psto := rfl
@[simp] theorem State.setRpw_bpln (s : State) (v : ReportWriter) : (s.setRpw v).bpln = s.bpln := rfl
@[simp] theorem State.setRpw_lmem (s : State) (v : ReportWriter) : (s.setRpw v).lmem = s.lmem := rfl
@[simp] theorem State.setRpw_ctxs (s : State) (v : ReportWriter) : (s.setRpw v).ctxs = s.ctxs := rfl
@[simp] theorem State.setRpw_warb (s : State) (v : ReportWriter) : (s.setRpw v).warb = s.warb := rfl
@[simp] theorem State.setRpw_crec (s : State) (v : ReportWriter) : (s.setRpw v).crec = s.crec := rfl
@[simp] theorem State.setRpw_evu (s : State) (v : ReportWriter) : (s.setRpw v).evu = s.evu := rfl
@[simp] theorem State.setRpw_rpw (s : State) (v : ReportWriter) : (s.setRpw v).rpw = v := rfl
@[simp] theorem State.setRpw_lineWait (s : State) (v : ReportWriter) : (s.setRpw v).lineWait = s.lineWait := rfl
@[simp] theorem State.setRpw_outputs (s : State) (v : ReportWriter) : (s.setRpw v).outputs = s.outputs := rfl
@[simp] theorem State.setRpw_pending (s : State) (v : ReportWriter) : (s.setRpw v).pending = s.pending := rfl

/-! ### setLineWait -/

@[simp] theorem State.setLineWait_time (s : State) (v : Nat) : (s.setLineWait v).time = s.time := rfl
@[simp] theorem State.setLineWait_stl (s : State) (v : Nat) : (s.setLineWait v).stl = s.stl := rfl
@[simp] theorem State.setLineWait_pb (s : State) (v : Nat) : (s.setLineWait v).pb = s.pb := rfl
@[simp] theorem State.setLineWait_llr (s : State) (v : Nat) : (s.setLineWait v).llr = s.llr := rfl
@[simp] theorem State.setLineWait_pmon (s : State) (v : Nat) : (s.setLineWait v).pmon = s.pmon := rfl
@[simp] theorem State.setLineWait_ptrk (s : State) (v : Nat) : (s.setLineWait v).ptrk = s.ptrk := rfl
@[simp] theorem State.setLineWait_fest (s : State) (v : Nat) : (s.setLineWait v).fest = s.fest := rfl
@[simp] theorem State.setLineWait_mept (s : State) (v : Nat) : (s.setLineWait v).mept = s.mept := rfl
@[simp] theorem State.setLineWait_psto (s : State) (v : Nat) : (s.setLineWait v).psto = s.psto := rfl
@[simp] theorem State.setLineWait_bpln (s : State) (v : Nat) : (s.setLineWait v).bpln = s.bpln := rfl
@[simp] theorem State.setLineWait_lmem (s : State) (v : Nat) : (s.setLineWait v).lmem = s.lmem := rfl
@[simp] theorem State.setLineWait_ctxs (s : State) (v : Nat) : (s.setLineWait v).ctxs = s.ctxs := rfl
@[simp] theorem State.setLineWait_warb (s : State) (v : Nat) : (s.setLineWait v).warb = s.warb := rfl
@[simp] theorem State.setLineWait_crec (s : State) (v : Nat) : (s.setLineWait v).crec = s.crec := rfl
@[simp] theorem State.setLineWait_evu (s : State) (v : Nat) : (s.setLineWait v).evu = s.evu := rfl
@[simp] theorem State.setLineWait_rpw (s : State) (v : Nat) : (s.setLineWait v).rpw = s.rpw := rfl
@[simp] theorem State.setLineWait_lineWait (s : State) (v : Nat) : (s.setLineWait v).lineWait = v := rfl
@[simp] theorem State.setLineWait_outputs (s : State) (v : Nat) : (s.setLineWait v).outputs = s.outputs := rfl
@[simp] theorem State.setLineWait_pending (s : State) (v : Nat) : (s.setLineWait v).pending = s.pending := rfl

/-! ### setOutputs -/

@[simp] theorem State.setOutputs_time (s : State) (v : List Output) : (s.setOutputs v).time = s.time := rfl
@[simp] theorem State.setOutputs_stl (s : State) (v : List Output) : (s.setOutputs v).stl = s.stl := rfl
@[simp] theorem State.setOutputs_pb (s : State) (v : List Output) : (s.setOutputs v).pb = s.pb := rfl
@[simp] theorem State.setOutputs_llr (s : State) (v : List Output) : (s.setOutputs v).llr = s.llr := rfl
@[simp] theorem State.setOutputs_pmon (s : State) (v : List Output) : (s.setOutputs v).pmon = s.pmon := rfl
@[simp] theorem State.setOutputs_ptrk (s : State) (v : List Output) : (s.setOutputs v).ptrk = s.ptrk := rfl
@[simp] theorem State.setOutputs_fest (s : State) (v : List Output) : (s.setOutputs v).fest = s.fest := rfl
@[simp] theorem State.setOutputs_mept (s : State) (v : List Output) : (s.setOutputs v).mept = s.mept := rfl
@[simp] theorem State.setOutputs_psto (s : State) (v : List Output) : (s.setOutputs v).psto = s.psto := rfl
@[simp] theorem State.setOutputs_bpln (s : State) (v : List Output) : (s.setOutputs v).bpln = s.bpln := rfl
@[simp] theorem State.setOutputs_lmem (s : State) (v : List Output) : (s.setOutputs v).lmem = s.lmem := rfl
@[simp] theorem State.setOutputs_ctxs (s : State) (v : List Output) : (s.setOutputs v).ctxs = s.ctxs := rfl
@[simp] theorem State.setOutputs_warb (s : State) (v : List Output) : (s.setOutputs v).warb = s.warb := rfl
@[simp] theorem State.setOutputs_crec (s : State) (v : List Output) : (s.setOutputs v).crec = s.crec := rfl
@[simp] theorem State.setOutputs_evu (s : State) (v : List Output) : (s.setOutputs v).evu = s.evu := rfl
@[simp] theorem State.setOutputs_rpw (s : State) (v : List Output) : (s.setOutputs v).rpw = s.rpw := rfl
@[simp] theorem State.setOutputs_lineWait (s : State) (v : List Output) : (s.setOutputs v).lineWait = s.lineWait := rfl
@[simp] theorem State.setOutputs_outputs (s : State) (v : List Output) : (s.setOutputs v).outputs = v := rfl
@[simp] theorem State.setOutputs_pending (s : State) (v : List Output) : (s.setOutputs v).pending = s.pending := rfl

/-! ### setPending -/

@[simp] theorem State.setPending_time (s : State) (v : List Instr) : (s.setPending v).time = s.time := rfl
@[simp] theorem State.setPending_stl (s : State) (v : List Instr) : (s.setPending v).stl = s.stl := rfl
@[simp] theorem State.setPending_pb (s : State) (v : List Instr) : (s.setPending v).pb = s.pb := rfl
@[simp] theorem State.setPending_llr (s : State) (v : List Instr) : (s.setPending v).llr = s.llr := rfl
@[simp] theorem State.setPending_pmon (s : State) (v : List Instr) : (s.setPending v).pmon = s.pmon := rfl
@[simp] theorem State.setPending_ptrk (s : State) (v : List Instr) : (s.setPending v).ptrk = s.ptrk := rfl
@[simp] theorem State.setPending_fest (s : State) (v : List Instr) : (s.setPending v).fest = s.fest := rfl
@[simp] theorem State.setPending_mept (s : State) (v : List Instr) : (s.setPending v).mept = s.mept := rfl
@[simp] theorem State.setPending_psto (s : State) (v : List Instr) : (s.setPending v).psto = s.psto := rfl
@[simp] theorem State.setPending_bpln (s : State) (v : List Instr) : (s.setPending v).bpln = s.bpln := rfl
@[simp] theorem State.setPending_lmem (s : State) (v : List Instr) : (s.setPending v).lmem = s.lmem := rfl
@[simp] theorem State.setPending_ctxs (s : State) (v : List Instr) : (s.setPending v).ctxs = s.ctxs := rfl
@[simp] theorem State.setPending_warb (s : State) (v : List Instr) : (s.setPending v).warb = s.warb := rfl
@[simp] theorem State.setPending_crec (s : State) (v : List Instr) : (s.setPending v).crec = s.crec := rfl
@[simp] theorem State.setPending_evu (s : State) (v : List Instr) : (s.setPending v).evu = s.evu := rfl
@[simp] theorem State.setPending_rpw (s : State) (v : List Instr) : (s.setPending v).rpw = s.rpw := rfl
@[simp] theorem State.setPending_lineWait (s : State) (v : List Instr) : (s.setPending v).lineWait = s.lineWait := rfl
@[simp] theorem State.setPending_outputs (s : State) (v : List Instr) : (s.setPending v).outputs = s.outputs := rfl
@[simp] theorem State.setPending_pending (s : State) (v : List Instr) : (s.setPending v).pending = v := rfl

/-! ### Contexts by index -/

@[simp] theorem State.ctx_setTime (s : State) (v : Time) (c : Ctx) : (s.setTime v).ctx c = s.ctx c := rfl
@[simp] theorem State.ctx_setStl (s : State) (v : StoreLoader) (c : Ctx) : (s.setStl v).ctx c = s.ctx c := rfl
@[simp] theorem State.ctx_setPb (s : State) (v : PortBridge) (c : Ctx) : (s.setPb v).ctx c = s.ctx c := rfl
@[simp] theorem State.ctx_setLlr (s : State) (v : LineReceiver) (c : Ctx) : (s.setLlr v).ctx c = s.ctx c := rfl
@[simp] theorem State.ctx_setPmon (s : State) (v : PositionMonitor) (c : Ctx) : (s.setPmon v).ctx c = s.ctx c := rfl
@[simp] theorem State.ctx_setPtrk (s : State) (v : Track) (c : Ctx) : (s.setPtrk v).ctx c = s.ctx c := rfl
@[simp] theorem State.ctx_setFest (s : State) (v : Estimator) (c : Ctx) : (s.setFest v).ctx c = s.ctx c := rfl
@[simp] theorem State.ctx_setMept (s : State) (v : EpochTable) (c : Ctx) : (s.setMept v).ctx c = s.ctx c := rfl
@[simp] theorem State.ctx_setPsto (s : State) (v : ProfileStore) (c : Ctx) : (s.setPsto v).ctx c = s.ctx c := rfl
@[simp] theorem State.ctx_setBpln (s : State) (v : Planner) (c : Ctx) : (s.setBpln v).ctx c = s.ctx c := rfl
@[simp] theorem State.ctx_setLmem (s : State) (v : LineMemory) (c : Ctx) : (s.setLmem v).ctx c = s.ctx c := rfl
@[simp] theorem State.ctx_setWarb (s : State) (v : Arbiter) (c : Ctx) : (s.setWarb v).ctx c = s.ctx c := rfl
@[simp] theorem State.ctx_setCrec (s : State) (v : ControlUnit) (c : Ctx) : (s.setCrec v).ctx c = s.ctx c := rfl
@[simp] theorem State.ctx_setEvu (s : State) (v : EventUnit) (c : Ctx) : (s.setEvu v).ctx c = s.ctx c := rfl
@[simp] theorem State.ctx_setRpw (s : State) (v : ReportWriter) (c : Ctx) : (s.setRpw v).ctx c = s.ctx c := rfl
@[simp] theorem State.ctx_setLineWait (s : State) (v : Nat) (c : Ctx) : (s.setLineWait v).ctx c = s.ctx c := rfl
@[simp] theorem State.ctx_setOutputs (s : State) (v : List Output) (c : Ctx) : (s.setOutputs v).ctx c = s.ctx c := rfl
@[simp] theorem State.ctx_setPending (s : State) (v : List Instr) (c : Ctx) : (s.setPending v).ctx c = s.ctx c := rfl

/-- Reading back the context that was set. -/
@[simp] theorem Both.get_set_self {α : Type} (b : Both α) (c : Ctx) (v : α) : (b.set c v).get c = v := by cases c <;> rfl

/-- Setting one context leaves the other. -/
theorem Both.get_set_other {α : Type} (b : Both α) {c d : Ctx} (v : α) (h : d ≠ c) : (b.set c v).get d = b.get d := by
  cases c <;> cases d <;> first | rfl | exact absurd rfl h

@[simp] theorem State.ctx_setCtx_self (s : State) (c : Ctx) (v : Context) : (s.setCtx c v).ctx c = v :=
  Both.get_set_self s.ctxs c v

theorem State.ctx_setCtx_other (s : State) {c d : Ctx} (v : Context) (h : d ≠ c) : (s.setCtx c v).ctx d = s.ctx d :=
  Both.get_set_other s.ctxs v h

@[simp] theorem State.setCtx_time (s : State) (c : Ctx) (v : Context) : (s.setCtx c v).time = s.time := rfl
@[simp] theorem State.setCtx_stl (s : State) (c : Ctx) (v : Context) : (s.setCtx c v).stl = s.stl := rfl
@[simp] theorem State.setCtx_pb (s : State) (c : Ctx) (v : Context) : (s.setCtx c v).pb = s.pb := rfl
@[simp] theorem State.setCtx_llr (s : State) (c : Ctx) (v : Context) : (s.setCtx c v).llr = s.llr := rfl
@[simp] theorem State.setCtx_pmon (s : State) (c : Ctx) (v : Context) : (s.setCtx c v).pmon = s.pmon := rfl
@[simp] theorem State.setCtx_ptrk (s : State) (c : Ctx) (v : Context) : (s.setCtx c v).ptrk = s.ptrk := rfl
@[simp] theorem State.setCtx_fest (s : State) (c : Ctx) (v : Context) : (s.setCtx c v).fest = s.fest := rfl
@[simp] theorem State.setCtx_mept (s : State) (c : Ctx) (v : Context) : (s.setCtx c v).mept = s.mept := rfl
@[simp] theorem State.setCtx_psto (s : State) (c : Ctx) (v : Context) : (s.setCtx c v).psto = s.psto := rfl
@[simp] theorem State.setCtx_bpln (s : State) (c : Ctx) (v : Context) : (s.setCtx c v).bpln = s.bpln := rfl
@[simp] theorem State.setCtx_lmem (s : State) (c : Ctx) (v : Context) : (s.setCtx c v).lmem = s.lmem := rfl
@[simp] theorem State.setCtx_warb (s : State) (c : Ctx) (v : Context) : (s.setCtx c v).warb = s.warb := rfl
@[simp] theorem State.setCtx_crec (s : State) (c : Ctx) (v : Context) : (s.setCtx c v).crec = s.crec := rfl
@[simp] theorem State.setCtx_evu (s : State) (c : Ctx) (v : Context) : (s.setCtx c v).evu = s.evu := rfl
@[simp] theorem State.setCtx_rpw (s : State) (c : Ctx) (v : Context) : (s.setCtx c v).rpw = s.rpw := rfl
@[simp] theorem State.setCtx_lineWait (s : State) (c : Ctx) (v : Context) : (s.setCtx c v).lineWait = s.lineWait := rfl
@[simp] theorem State.setCtx_outputs (s : State) (c : Ctx) (v : Context) : (s.setCtx c v).outputs = s.outputs := rfl
@[simp] theorem State.setCtx_pending (s : State) (c : Ctx) (v : Context) : (s.setCtx c v).pending = s.pending := rfl

/-! ### emit -/

@[simp] theorem State.emit_time (s : State) (o : Output) : (s.emit o).time = s.time := rfl
@[simp] theorem State.emit_stl (s : State) (o : Output) : (s.emit o).stl = s.stl := rfl
@[simp] theorem State.emit_pb (s : State) (o : Output) : (s.emit o).pb = s.pb := rfl
@[simp] theorem State.emit_llr (s : State) (o : Output) : (s.emit o).llr = s.llr := rfl
@[simp] theorem State.emit_pmon (s : State) (o : Output) : (s.emit o).pmon = s.pmon := rfl
@[simp] theorem State.emit_ptrk (s : State) (o : Output) : (s.emit o).ptrk = s.ptrk := rfl
@[simp] theorem State.emit_fest (s : State) (o : Output) : (s.emit o).fest = s.fest := rfl
@[simp] theorem State.emit_mept (s : State) (o : Output) : (s.emit o).mept = s.mept := rfl
@[simp] theorem State.emit_psto (s : State) (o : Output) : (s.emit o).psto = s.psto := rfl
@[simp] theorem State.emit_bpln (s : State) (o : Output) : (s.emit o).bpln = s.bpln := rfl
@[simp] theorem State.emit_lmem (s : State) (o : Output) : (s.emit o).lmem = s.lmem := rfl
@[simp] theorem State.emit_ctxs (s : State) (o : Output) : (s.emit o).ctxs = s.ctxs := rfl
@[simp] theorem State.emit_warb (s : State) (o : Output) : (s.emit o).warb = s.warb := rfl
@[simp] theorem State.emit_crec (s : State) (o : Output) : (s.emit o).crec = s.crec := rfl
@[simp] theorem State.emit_evu (s : State) (o : Output) : (s.emit o).evu = s.evu := rfl
@[simp] theorem State.emit_rpw (s : State) (o : Output) : (s.emit o).rpw = s.rpw := rfl
@[simp] theorem State.emit_lineWait (s : State) (o : Output) : (s.emit o).lineWait = s.lineWait := rfl
@[simp] theorem State.emit_outputs (s : State) (o : Output) : (s.emit o).outputs = s.outputs ++ [o] := rfl
@[simp] theorem State.emit_pending (s : State) (o : Output) : (s.emit o).pending = s.pending := rfl
@[simp] theorem State.ctx_emit (s : State) (o : Output) (c : Ctx) : (s.emit o).ctx c = s.ctx c := rfl

/-! ### latch -/

@[simp] theorem State.latch_time (s : State) (e : Event) : (s.latch e).time = s.time := rfl
@[simp] theorem State.latch_stl (s : State) (e : Event) : (s.latch e).stl = s.stl := rfl
@[simp] theorem State.latch_pb (s : State) (e : Event) : (s.latch e).pb = s.pb := rfl
@[simp] theorem State.latch_llr (s : State) (e : Event) : (s.latch e).llr = s.llr := rfl
@[simp] theorem State.latch_pmon (s : State) (e : Event) : (s.latch e).pmon = s.pmon := rfl
@[simp] theorem State.latch_ptrk (s : State) (e : Event) : (s.latch e).ptrk = s.ptrk := rfl
@[simp] theorem State.latch_fest (s : State) (e : Event) : (s.latch e).fest = s.fest := rfl
@[simp] theorem State.latch_mept (s : State) (e : Event) : (s.latch e).mept = s.mept := rfl
@[simp] theorem State.latch_psto (s : State) (e : Event) : (s.latch e).psto = s.psto := rfl
@[simp] theorem State.latch_bpln (s : State) (e : Event) : (s.latch e).bpln = s.bpln := rfl
@[simp] theorem State.latch_lmem (s : State) (e : Event) : (s.latch e).lmem = s.lmem := rfl
@[simp] theorem State.latch_ctxs (s : State) (e : Event) : (s.latch e).ctxs = s.ctxs := rfl
@[simp] theorem State.latch_warb (s : State) (e : Event) : (s.latch e).warb = s.warb := rfl
@[simp] theorem State.latch_crec (s : State) (e : Event) : (s.latch e).crec = s.crec := rfl
@[simp] theorem State.latch_evu (s : State) (e : Event) : (s.latch e).evu = s.evu.latch s.isReady e := rfl
@[simp] theorem State.latch_rpw (s : State) (e : Event) : (s.latch e).rpw = s.rpw := rfl
@[simp] theorem State.latch_lineWait (s : State) (e : Event) : (s.latch e).lineWait = s.lineWait := rfl
@[simp] theorem State.latch_outputs (s : State) (e : Event) : (s.latch e).outputs = s.outputs := rfl
@[simp] theorem State.latch_pending (s : State) (e : Event) : (s.latch e).pending = s.pending := rfl
@[simp] theorem State.ctx_latch (s : State) (e : Event) (c : Ctx) : (s.latch e).ctx c = s.ctx c := rfl

/-! ### latchIf -/

@[simp] theorem State.latchIf_time (s : State) (b : Bool) (e : Event) : (s.latchIf b e).time = s.time := rfl
@[simp] theorem State.latchIf_stl (s : State) (b : Bool) (e : Event) : (s.latchIf b e).stl = s.stl := rfl
@[simp] theorem State.latchIf_pb (s : State) (b : Bool) (e : Event) : (s.latchIf b e).pb = s.pb := rfl
@[simp] theorem State.latchIf_llr (s : State) (b : Bool) (e : Event) : (s.latchIf b e).llr = s.llr := rfl
@[simp] theorem State.latchIf_pmon (s : State) (b : Bool) (e : Event) : (s.latchIf b e).pmon = s.pmon := rfl
@[simp] theorem State.latchIf_ptrk (s : State) (b : Bool) (e : Event) : (s.latchIf b e).ptrk = s.ptrk := rfl
@[simp] theorem State.latchIf_fest (s : State) (b : Bool) (e : Event) : (s.latchIf b e).fest = s.fest := rfl
@[simp] theorem State.latchIf_mept (s : State) (b : Bool) (e : Event) : (s.latchIf b e).mept = s.mept := rfl
@[simp] theorem State.latchIf_psto (s : State) (b : Bool) (e : Event) : (s.latchIf b e).psto = s.psto := rfl
@[simp] theorem State.latchIf_bpln (s : State) (b : Bool) (e : Event) : (s.latchIf b e).bpln = s.bpln := rfl
@[simp] theorem State.latchIf_lmem (s : State) (b : Bool) (e : Event) : (s.latchIf b e).lmem = s.lmem := rfl
@[simp] theorem State.latchIf_ctxs (s : State) (b : Bool) (e : Event) : (s.latchIf b e).ctxs = s.ctxs := rfl
@[simp] theorem State.latchIf_warb (s : State) (b : Bool) (e : Event) : (s.latchIf b e).warb = s.warb := rfl
@[simp] theorem State.latchIf_crec (s : State) (b : Bool) (e : Event) : (s.latchIf b e).crec = s.crec := rfl
@[simp] theorem State.latchIf_evu (s : State) (b : Bool) (e : Event) : (s.latchIf b e).evu = if b then s.evu.latch s.isReady e else s.evu := rfl
@[simp] theorem State.latchIf_rpw (s : State) (b : Bool) (e : Event) : (s.latchIf b e).rpw = s.rpw := rfl
@[simp] theorem State.latchIf_lineWait (s : State) (b : Bool) (e : Event) : (s.latchIf b e).lineWait = s.lineWait := rfl
@[simp] theorem State.latchIf_outputs (s : State) (b : Bool) (e : Event) : (s.latchIf b e).outputs = s.outputs := rfl
@[simp] theorem State.latchIf_pending (s : State) (b : Bool) (e : Event) : (s.latchIf b e).pending = s.pending := rfl
@[simp] theorem State.ctx_latchIf (s : State) (b : Bool) (e : Event) (c : Ctx) : (s.latchIf b e).ctx c = s.ctx c := rfl

/-! ### request -/

@[simp] theorem State.request_time (s : State) (r : Requester) (run : Run) : (s.request r run).time = s.time := rfl
@[simp] theorem State.request_stl (s : State) (r : Requester) (run : Run) : (s.request r run).stl = s.stl := rfl
@[simp] theorem State.request_pb (s : State) (r : Requester) (run : Run) : (s.request r run).pb = s.pb := rfl
@[simp] theorem State.request_llr (s : State) (r : Requester) (run : Run) : (s.request r run).llr = s.llr := rfl
@[simp] theorem State.request_pmon (s : State) (r : Requester) (run : Run) : (s.request r run).pmon = s.pmon := rfl
@[simp] theorem State.request_ptrk (s : State) (r : Requester) (run : Run) : (s.request r run).ptrk = s.ptrk := rfl
@[simp] theorem State.request_fest (s : State) (r : Requester) (run : Run) : (s.request r run).fest = s.fest := rfl
@[simp] theorem State.request_mept (s : State) (r : Requester) (run : Run) : (s.request r run).mept = s.mept := rfl
@[simp] theorem State.request_psto (s : State) (r : Requester) (run : Run) : (s.request r run).psto = s.psto := rfl
@[simp] theorem State.request_bpln (s : State) (r : Requester) (run : Run) : (s.request r run).bpln = s.bpln := rfl
@[simp] theorem State.request_lmem (s : State) (r : Requester) (run : Run) : (s.request r run).lmem = s.lmem := rfl
@[simp] theorem State.request_ctxs (s : State) (r : Requester) (run : Run) : (s.request r run).ctxs = s.ctxs := rfl
@[simp] theorem State.request_warb (s : State) (r : Requester) (run : Run) : (s.request r run).warb = s.warb.request r run := rfl
@[simp] theorem State.request_crec (s : State) (r : Requester) (run : Run) : (s.request r run).crec = s.crec := rfl
@[simp] theorem State.request_evu (s : State) (r : Requester) (run : Run) : (s.request r run).evu = s.evu := rfl
@[simp] theorem State.request_rpw (s : State) (r : Requester) (run : Run) : (s.request r run).rpw = s.rpw := rfl
@[simp] theorem State.request_lineWait (s : State) (r : Requester) (run : Run) : (s.request r run).lineWait = s.lineWait := rfl
@[simp] theorem State.request_outputs (s : State) (r : Requester) (run : Run) : (s.request r run).outputs = s.outputs := rfl
@[simp] theorem State.request_pending (s : State) (r : Requester) (run : Run) : (s.request r run).pending = s.pending := rfl
@[simp] theorem State.ctx_request (s : State) (r : Requester) (run : Run) (c : Ctx) : (s.request r run).ctx c = s.ctx c := rfl

/-! ### withdraw -/

@[simp] theorem State.withdraw_time (s : State) (r : Requester) : (s.withdraw r).time = s.time := rfl
@[simp] theorem State.withdraw_stl (s : State) (r : Requester) : (s.withdraw r).stl = s.stl := rfl
@[simp] theorem State.withdraw_pb (s : State) (r : Requester) : (s.withdraw r).pb = s.pb := rfl
@[simp] theorem State.withdraw_llr (s : State) (r : Requester) : (s.withdraw r).llr = s.llr := rfl
@[simp] theorem State.withdraw_pmon (s : State) (r : Requester) : (s.withdraw r).pmon = s.pmon := rfl
@[simp] theorem State.withdraw_ptrk (s : State) (r : Requester) : (s.withdraw r).ptrk = s.ptrk := rfl
@[simp] theorem State.withdraw_fest (s : State) (r : Requester) : (s.withdraw r).fest = s.fest := rfl
@[simp] theorem State.withdraw_mept (s : State) (r : Requester) : (s.withdraw r).mept = s.mept := rfl
@[simp] theorem State.withdraw_psto (s : State) (r : Requester) : (s.withdraw r).psto = s.psto := rfl
@[simp] theorem State.withdraw_bpln (s : State) (r : Requester) : (s.withdraw r).bpln = s.bpln := rfl
@[simp] theorem State.withdraw_lmem (s : State) (r : Requester) : (s.withdraw r).lmem = s.lmem := rfl
@[simp] theorem State.withdraw_ctxs (s : State) (r : Requester) : (s.withdraw r).ctxs = s.ctxs := rfl
@[simp] theorem State.withdraw_warb (s : State) (r : Requester) : (s.withdraw r).warb = s.warb.withdraw r := rfl
@[simp] theorem State.withdraw_crec (s : State) (r : Requester) : (s.withdraw r).crec = s.crec := rfl
@[simp] theorem State.withdraw_evu (s : State) (r : Requester) : (s.withdraw r).evu = s.evu := rfl
@[simp] theorem State.withdraw_rpw (s : State) (r : Requester) : (s.withdraw r).rpw = s.rpw := rfl
@[simp] theorem State.withdraw_lineWait (s : State) (r : Requester) : (s.withdraw r).lineWait = s.lineWait := rfl
@[simp] theorem State.withdraw_outputs (s : State) (r : Requester) : (s.withdraw r).outputs = s.outputs := rfl
@[simp] theorem State.withdraw_pending (s : State) (r : Requester) : (s.withdraw r).pending = s.pending := rfl
@[simp] theorem State.ctx_withdraw (s : State) (r : Requester) (c : Ctx) : (s.withdraw r).ctx c = s.ctx c := rfl

/-! ### clearTrack -/

@[simp] theorem State.clearTrack_time (s : State)  : (s.clearTrack).time = s.time := rfl
@[simp] theorem State.clearTrack_stl (s : State)  : (s.clearTrack).stl = s.stl := rfl
@[simp] theorem State.clearTrack_pb (s : State)  : (s.clearTrack).pb = s.pb := rfl
@[simp] theorem State.clearTrack_llr (s : State)  : (s.clearTrack).llr = s.llr := rfl
@[simp] theorem State.clearTrack_pmon (s : State)  : (s.clearTrack).pmon = s.pmon := rfl
@[simp] theorem State.clearTrack_ptrk (s : State)  : (s.clearTrack).ptrk = s.ptrk.clear := rfl
@[simp] theorem State.clearTrack_fest (s : State)  : (s.clearTrack).fest = s.fest := rfl
@[simp] theorem State.clearTrack_mept (s : State)  : (s.clearTrack).mept = s.mept := rfl
@[simp] theorem State.clearTrack_psto (s : State)  : (s.clearTrack).psto = s.psto := rfl
@[simp] theorem State.clearTrack_bpln (s : State)  : (s.clearTrack).bpln = s.bpln := rfl
@[simp] theorem State.clearTrack_lmem (s : State)  : (s.clearTrack).lmem = s.lmem := rfl
@[simp] theorem State.clearTrack_ctxs (s : State)  : (s.clearTrack).ctxs = s.ctxs := rfl
@[simp] theorem State.clearTrack_warb (s : State)  : (s.clearTrack).warb = s.warb := rfl
@[simp] theorem State.clearTrack_crec (s : State)  : (s.clearTrack).crec = s.crec := rfl
@[simp] theorem State.clearTrack_evu (s : State)  : (s.clearTrack).evu = s.evu := rfl
@[simp] theorem State.clearTrack_rpw (s : State)  : (s.clearTrack).rpw = s.rpw := rfl
@[simp] theorem State.clearTrack_lineWait (s : State)  : (s.clearTrack).lineWait = s.lineWait := rfl
@[simp] theorem State.clearTrack_outputs (s : State)  : (s.clearTrack).outputs = s.outputs := rfl
@[simp] theorem State.clearTrack_pending (s : State)  : (s.clearTrack).pending = s.pending := rfl
@[simp] theorem State.ctx_clearTrack (s : State)  (c : Ctx) : (s.clearTrack).ctx c = s.ctx c := rfl

/-! ### insertSample -/

@[simp] theorem State.insertSample_time (s : State) (x : Sample) : (s.insertSample x).time = s.time := by unfold State.insertSample; rfl
@[simp] theorem State.insertSample_stl (s : State) (x : Sample) : (s.insertSample x).stl = s.stl := by unfold State.insertSample; rfl
@[simp] theorem State.insertSample_pb (s : State) (x : Sample) : (s.insertSample x).pb = s.pb := by unfold State.insertSample; rfl
@[simp] theorem State.insertSample_llr (s : State) (x : Sample) : (s.insertSample x).llr = s.llr := by unfold State.insertSample; rfl
@[simp] theorem State.insertSample_pmon (s : State) (x : Sample) : (s.insertSample x).pmon = { s.pmon with timer := some s.time } := by unfold State.insertSample; rfl
@[simp] theorem State.insertSample_ptrk (s : State) (x : Sample) : (s.insertSample x).ptrk = s.ptrk.insert x := by unfold State.insertSample; rfl
@[simp] theorem State.insertSample_fest (s : State) (x : Sample) : (s.insertSample x).fest = s.fest := by unfold State.insertSample; rfl
@[simp] theorem State.insertSample_mept (s : State) (x : Sample) : (s.insertSample x).mept = s.mept := by unfold State.insertSample; rfl
@[simp] theorem State.insertSample_psto (s : State) (x : Sample) : (s.insertSample x).psto = s.psto := by unfold State.insertSample; rfl
@[simp] theorem State.insertSample_bpln (s : State) (x : Sample) : (s.insertSample x).bpln = s.bpln := by unfold State.insertSample; rfl
@[simp] theorem State.insertSample_lmem (s : State) (x : Sample) : (s.insertSample x).lmem = s.lmem := by unfold State.insertSample; rfl
@[simp] theorem State.insertSample_ctxs (s : State) (x : Sample) : (s.insertSample x).ctxs = s.ctxs := by unfold State.insertSample; rfl
@[simp] theorem State.insertSample_warb (s : State) (x : Sample) : (s.insertSample x).warb = s.warb := by unfold State.insertSample; rfl
@[simp] theorem State.insertSample_crec (s : State) (x : Sample) : (s.insertSample x).crec = s.crec := by unfold State.insertSample; rfl
@[simp] theorem State.insertSample_evu (s : State) (x : Sample) : (s.insertSample x).evu = s.evu := by unfold State.insertSample; rfl
@[simp] theorem State.insertSample_rpw (s : State) (x : Sample) : (s.insertSample x).rpw = s.rpw := by unfold State.insertSample; rfl
@[simp] theorem State.insertSample_lineWait (s : State) (x : Sample) : (s.insertSample x).lineWait = s.lineWait := by unfold State.insertSample; rfl
@[simp] theorem State.insertSample_outputs (s : State) (x : Sample) : (s.insertSample x).outputs = s.outputs := by unfold State.insertSample; rfl
@[simp] theorem State.insertSample_pending (s : State) (x : Sample) : (s.insertSample x).pending = s.pending := by unfold State.insertSample; rfl

/-! ### mapFrame -/

@[simp] theorem State.mapFrame_time (s : State) (c : Ctx) (f : Frame → Frame) : (s.mapFrame c f).time = s.time := rfl
@[simp] theorem State.mapFrame_stl (s : State) (c : Ctx) (f : Frame → Frame) : (s.mapFrame c f).stl = s.stl := rfl
@[simp] theorem State.mapFrame_pb (s : State) (c : Ctx) (f : Frame → Frame) : (s.mapFrame c f).pb = s.pb := rfl
@[simp] theorem State.mapFrame_llr (s : State) (c : Ctx) (f : Frame → Frame) : (s.mapFrame c f).llr = s.llr := rfl
@[simp] theorem State.mapFrame_pmon (s : State) (c : Ctx) (f : Frame → Frame) : (s.mapFrame c f).pmon = s.pmon := rfl
@[simp] theorem State.mapFrame_ptrk (s : State) (c : Ctx) (f : Frame → Frame) : (s.mapFrame c f).ptrk = s.ptrk := rfl
@[simp] theorem State.mapFrame_fest (s : State) (c : Ctx) (f : Frame → Frame) : (s.mapFrame c f).fest = s.fest := rfl
@[simp] theorem State.mapFrame_mept (s : State) (c : Ctx) (f : Frame → Frame) : (s.mapFrame c f).mept = s.mept := rfl
@[simp] theorem State.mapFrame_psto (s : State) (c : Ctx) (f : Frame → Frame) : (s.mapFrame c f).psto = s.psto := rfl
@[simp] theorem State.mapFrame_bpln (s : State) (c : Ctx) (f : Frame → Frame) : (s.mapFrame c f).bpln = s.bpln := rfl
@[simp] theorem State.mapFrame_lmem (s : State) (c : Ctx) (f : Frame → Frame) : (s.mapFrame c f).lmem = s.lmem := rfl
@[simp] theorem State.mapFrame_warb (s : State) (c : Ctx) (f : Frame → Frame) : (s.mapFrame c f).warb = s.warb := rfl
@[simp] theorem State.mapFrame_crec (s : State) (c : Ctx) (f : Frame → Frame) : (s.mapFrame c f).crec = s.crec := rfl
@[simp] theorem State.mapFrame_evu (s : State) (c : Ctx) (f : Frame → Frame) : (s.mapFrame c f).evu = s.evu := rfl
@[simp] theorem State.mapFrame_rpw (s : State) (c : Ctx) (f : Frame → Frame) : (s.mapFrame c f).rpw = s.rpw := rfl
@[simp] theorem State.mapFrame_lineWait (s : State) (c : Ctx) (f : Frame → Frame) : (s.mapFrame c f).lineWait = s.lineWait := rfl
@[simp] theorem State.mapFrame_outputs (s : State) (c : Ctx) (f : Frame → Frame) : (s.mapFrame c f).outputs = s.outputs := rfl
@[simp] theorem State.mapFrame_pending (s : State) (c : Ctx) (f : Frame → Frame) : (s.mapFrame c f).pending = s.pending := rfl
@[simp] theorem State.ctx_mapFrame_self (s : State) (c : Ctx) (f : Frame → Frame) : (s.mapFrame c f).ctx c = (s.ctx c).mapFrame f :=
  State.ctx_setCtx_self s c _

/-! ### Time passing -/

@[simp] theorem State.advance_stl (s : State) (dt : Nat) : (s.advance dt).stl = s.stl := by unfold State.advance; split <;> simp
@[simp] theorem State.advance_pb (s : State) (dt : Nat) : (s.advance dt).pb = s.pb := by unfold State.advance; split <;> simp
@[simp] theorem State.advance_llr (s : State) (dt : Nat) : (s.advance dt).llr = s.llr := by unfold State.advance; split <;> simp
@[simp] theorem State.advance_pmon (s : State) (dt : Nat) : (s.advance dt).pmon = s.pmon := by unfold State.advance; split <;> simp
@[simp] theorem State.advance_ptrk (s : State) (dt : Nat) : (s.advance dt).ptrk = s.ptrk := by unfold State.advance; split <;> simp
@[simp] theorem State.advance_fest (s : State) (dt : Nat) : (s.advance dt).fest = s.fest := by unfold State.advance; split <;> simp
@[simp] theorem State.advance_mept (s : State) (dt : Nat) : (s.advance dt).mept = s.mept := by unfold State.advance; split <;> simp
@[simp] theorem State.advance_psto (s : State) (dt : Nat) : (s.advance dt).psto = s.psto := by unfold State.advance; split <;> simp
@[simp] theorem State.advance_bpln (s : State) (dt : Nat) : (s.advance dt).bpln = s.bpln := by unfold State.advance; split <;> simp
@[simp] theorem State.advance_lmem (s : State) (dt : Nat) : (s.advance dt).lmem = s.lmem := by unfold State.advance; split <;> simp
@[simp] theorem State.advance_ctxs (s : State) (dt : Nat) : (s.advance dt).ctxs = s.ctxs := by unfold State.advance; split <;> simp
@[simp] theorem State.advance_warb (s : State) (dt : Nat) : (s.advance dt).warb = s.warb := by unfold State.advance; split <;> simp
@[simp] theorem State.advance_crec (s : State) (dt : Nat) : (s.advance dt).crec = s.crec := by unfold State.advance; split <;> simp
@[simp] theorem State.advance_evu (s : State) (dt : Nat) : (s.advance dt).evu = s.evu := by unfold State.advance; split <;> simp
@[simp] theorem State.advance_rpw (s : State) (dt : Nat) : (s.advance dt).rpw = s.rpw := by unfold State.advance; split <;> simp
@[simp] theorem State.advance_outputs (s : State) (dt : Nat) : (s.advance dt).outputs = s.outputs := by unfold State.advance; split <;> simp
@[simp] theorem State.advance_pending (s : State) (dt : Nat) : (s.advance dt).pending = s.pending := by unfold State.advance; split <;> simp
@[simp] theorem State.begin_stl (s : State) (dt : Nat) : (s.begin dt).stl = s.stl := State.advance_stl s dt
@[simp] theorem State.begin_pb (s : State) (dt : Nat) : (s.begin dt).pb = s.pb := State.advance_pb s dt
@[simp] theorem State.begin_llr (s : State) (dt : Nat) : (s.begin dt).llr = s.llr := State.advance_llr s dt
@[simp] theorem State.begin_pmon (s : State) (dt : Nat) : (s.begin dt).pmon = s.pmon := State.advance_pmon s dt
@[simp] theorem State.begin_ptrk (s : State) (dt : Nat) : (s.begin dt).ptrk = s.ptrk := State.advance_ptrk s dt
@[simp] theorem State.begin_fest (s : State) (dt : Nat) : (s.begin dt).fest = s.fest := State.advance_fest s dt
@[simp] theorem State.begin_mept (s : State) (dt : Nat) : (s.begin dt).mept = s.mept := State.advance_mept s dt
@[simp] theorem State.begin_psto (s : State) (dt : Nat) : (s.begin dt).psto = s.psto := State.advance_psto s dt
@[simp] theorem State.begin_bpln (s : State) (dt : Nat) : (s.begin dt).bpln = s.bpln := State.advance_bpln s dt
@[simp] theorem State.begin_lmem (s : State) (dt : Nat) : (s.begin dt).lmem = s.lmem := State.advance_lmem s dt
@[simp] theorem State.begin_ctxs (s : State) (dt : Nat) : (s.begin dt).ctxs = s.ctxs := State.advance_ctxs s dt
@[simp] theorem State.begin_warb (s : State) (dt : Nat) : (s.begin dt).warb = s.warb := State.advance_warb s dt
@[simp] theorem State.begin_crec (s : State) (dt : Nat) : (s.begin dt).crec = s.crec := State.advance_crec s dt
@[simp] theorem State.begin_evu (s : State) (dt : Nat) : (s.begin dt).evu = s.evu := State.advance_evu s dt
@[simp] theorem State.begin_rpw (s : State) (dt : Nat) : (s.begin dt).rpw = s.rpw := State.advance_rpw s dt
@[simp] theorem State.begin_pending (s : State) (dt : Nat) : (s.begin dt).pending = s.pending := State.advance_pending s dt
@[simp] theorem State.begin_outputs (s : State) (dt : Nat) : (s.begin dt).outputs = [] := rfl
@[simp] theorem State.ctx_begin (s : State) (dt : Nat) (c : Ctx) : (s.begin dt).ctx c = s.ctx c :=
  congrArg (fun b => Both.get b c) (State.begin_ctxs s dt)

/-- The time after a command's own time: the counter stands while the part is in reset (R58, R182). -/
theorem State.begin_time (s : State) (dt : Nat) :
    (s.begin dt).time = if s.stl.part = .inReset then s.time else s.time + BitVec.ofNat 32 dt := by
  show (s.advance dt).time = _
  unfold State.advance; split <;> rfl

/-- The wait for the first character runs down with the counter (R20, log 20). -/
theorem State.begin_lineWait (s : State) (dt : Nat) :
    (s.begin dt).lineWait = if s.stl.part = .inReset then s.lineWait else s.lineWait - dt := by
  show (s.advance dt).lineWait = _
  unfold State.advance; split <;> rfl

@[simp] theorem State.begin_isReady (s : State) (dt : Nat) : (s.begin dt).isReady = s.isReady := by
  simp [State.isReady]

@[simp] theorem State.begin_takesRecords (s : State) (dt : Nat) : (s.begin dt).takesRecords = s.takesRecords := by
  simp [State.takesRecords]

/-- Where records are taken, the counter runs. -/
theorem State.begin_time_of_takesRecords {s : State} (dt : Nat) (h : s.takesRecords = true) :
    (s.begin dt).time = s.time + BitVec.ofNat 32 dt := by
  have hp : s.stl.part = .ready := by
    simp [State.takesRecords, State.isReady] at h; exact h.1.1
  rw [State.begin_time, if_neg (by rw [hp]; decide)]

/-- Where the part is READY, the counter runs. -/
theorem State.begin_time_of_ready {s : State} (dt : Nat) (h : s.stl.part = .ready) :
    (s.begin dt).time = s.time + BitVec.ofNat 32 dt := by
  rw [State.begin_time, if_neg (by rw [h]; decide)]

end Sys2Proof.Machine
end

