-- ==== Sys2Proof/Laws/Shared.lean ====
section
/-! SUPPORT. What each shared operation can change. Each lemma carries a state that differs from `s` in the named blocks
at most over one operation, so that the lemmas chain along the operations a meaning applies. -/

namespace Sys2Proof.Machine

theorem State.changesOnly_refl (s : State) (bs : List Block) : s.changesOnly s bs := by
  intro b _; cases b <;> rfl

theorem State.changesOnly_trans {s t u : State} {bs : List Block} (h : s.changesOnly t bs) (k : t.changesOnly u bs) :
    s.changesOnly u bs := by
  intro b hb
  have h1 := h b hb
  have h2 := k b hb
  cases b <;> exact Eq.trans h2 h1

theorem State.changesOnly_mono {s t : State} {bs cs : List Block} (h : s.changesOnly t bs) (hs : ∀ b ∈ bs, b ∈ cs) :
    s.changesOnly t cs := fun b hb => h b fun hm => hb (hs b hm)

/-- The blocks that planning changes: the table, the store, the planner, the contexts, the arbiter, the events. -/
def planBlocks : List Block := [.mept, .psto, .bpln, .ctx0, .ctx1, .stall0, .stall1, .warb, .evu]

/-- The blocks that the end of a frame changes: those of planning, the port bridge's reads, the line memory's split,
the report queue, and the ports. -/
def frameBlocks : List Block :=
  [.mept, .psto, .bpln, .ctx0, .ctx1, .stall0, .stall1, .warb, .grant, .evu, .pb, .lmem, .rpw, .outputs]

section Updates

variable {s t : State} {bs : List Block}

theorem changes_setTime (v : Time) (hb : Block.time ∈ bs) (h : s.changesOnly t bs) :
    s.changesOnly (t.setTime v) bs := by
  intro b hn; have := h b hn; cases b <;> first | exact this | exact absurd hb hn

theorem changes_setStl (v : StoreLoader) (hb : Block.stl ∈ bs) (h : s.changesOnly t bs) :
    s.changesOnly (t.setStl v) bs := by
  intro b hn; have := h b hn; cases b <;> first | exact this | exact absurd hb hn

theorem changes_setPb (v : PortBridge) (hb : Block.pb ∈ bs) (h : s.changesOnly t bs) :
    s.changesOnly (t.setPb v) bs := by
  intro b hn; have := h b hn; cases b <;> first | exact this | exact absurd hb hn

theorem changes_setLlr (v : LineReceiver) (hb : Block.llr ∈ bs) (h : s.changesOnly t bs) :
    s.changesOnly (t.setLlr v) bs := by
  intro b hn; have := h b hn; cases b <;> first | exact this | exact absurd hb hn

theorem changes_setPmon (v : PositionMonitor) (hb : Block.pmon ∈ bs) (h : s.changesOnly t bs) :
    s.changesOnly (t.setPmon v) bs := by
  intro b hn; have := h b hn; cases b <;> first | exact this | exact absurd hb hn

theorem changes_setPtrk (v : Track) (hb : Block.ptrk ∈ bs) (h : s.changesOnly t bs) :
    s.changesOnly (t.setPtrk v) bs := by
  intro b hn; have := h b hn; cases b <;> first | exact this | exact absurd hb hn

theorem changes_setFest (v : Estimator) (hb : Block.fest ∈ bs) (h : s.changesOnly t bs) :
    s.changesOnly (t.setFest v) bs := by
  intro b hn; have := h b hn; cases b <;> first | exact this | exact absurd hb hn

theorem changes_setMept (v : EpochTable) (hb : Block.mept ∈ bs) (h : s.changesOnly t bs) :
    s.changesOnly (t.setMept v) bs := by
  intro b hn; have := h b hn; cases b <;> first | exact this | exact absurd hb hn

theorem changes_setPsto (v : ProfileStore) (hb : Block.psto ∈ bs) (h : s.changesOnly t bs) :
    s.changesOnly (t.setPsto v) bs := by
  intro b hn; have := h b hn; cases b <;> first | exact this | exact absurd hb hn

theorem changes_setBpln (v : Planner) (hb : Block.bpln ∈ bs) (h : s.changesOnly t bs) :
    s.changesOnly (t.setBpln v) bs := by
  intro b hn; have := h b hn; cases b <;> first | exact this | exact absurd hb hn

theorem changes_setLmem (v : LineMemory) (hb : Block.lmem ∈ bs) (h : s.changesOnly t bs) :
    s.changesOnly (t.setLmem v) bs := by
  intro b hn; have := h b hn; cases b <;> first | exact this | exact absurd hb hn

theorem changes_setWarb (v : Arbiter) (hb : Block.warb ∈ bs) (hg : Block.grant ∈ bs) (h : s.changesOnly t bs) :
    s.changesOnly (t.setWarb v) bs := by
  intro b hn; have := h b hn; cases b <;> first | exact this | exact absurd hb hn | exact absurd hg hn

/-- An arbiter update that keeps the grant state. -/
theorem changes_setWarb_keeps (v : Arbiter) (hb : Block.warb ∈ bs) (hv : v.grantState = t.warb.grantState)
    (h : s.changesOnly t bs) : s.changesOnly (t.setWarb v) bs := by
  intro b hn; have := h b hn; cases b <;> first | exact this | exact absurd hb hn | exact hv.trans this

theorem changes_setCrec (v : ControlUnit) (hb : Block.crec ∈ bs) (h : s.changesOnly t bs) :
    s.changesOnly (t.setCrec v) bs := by
  intro b hn; have := h b hn; cases b <;> first | exact this | exact absurd hb hn

theorem changes_setEvu (v : EventUnit) (hb : Block.evu ∈ bs) (h : s.changesOnly t bs) :
    s.changesOnly (t.setEvu v) bs := by
  intro b hn; have := h b hn; cases b <;> first | exact this | exact absurd hb hn

theorem changes_setRpw (v : ReportWriter) (hb : Block.rpw ∈ bs) (h : s.changesOnly t bs) :
    s.changesOnly (t.setRpw v) bs := by
  intro b hn; have := h b hn; cases b <;> first | exact this | exact absurd hb hn

theorem changes_setLineWait (v : Nat) (hb : Block.line ∈ bs) (h : s.changesOnly t bs) :
    s.changesOnly (t.setLineWait v) bs := by
  intro b hn; have := h b hn; cases b <;> first | exact this | exact absurd hb hn

theorem changes_setOutputs (v : List Output) (hb : Block.outputs ∈ bs) (h : s.changesOnly t bs) :
    s.changesOnly (t.setOutputs v) bs := by
  intro b hn; have := h b hn; cases b <;> first | exact this | exact absurd hb hn

theorem changes_setPending (v : List Instr) (hb : Block.pending ∈ bs) (h : s.changesOnly t bs) :
    s.changesOnly (t.setPending v) bs := by
  intro b hn; have := h b hn; cases b <;> first | exact this | exact absurd hb hn

theorem changes_setCtx (c : Ctx) (v : Context) (hb : blockOf c ∈ bs) (hs : stallOf c ∈ bs) (h : s.changesOnly t bs) :
    s.changesOnly (t.setCtx c v) bs := by
  intro b hn; have := h b hn
  cases c <;> cases b <;> first | exact this | exact absurd hb hn | exact absurd hs hn

theorem changes_latch (e : Event) (hb : Block.evu ∈ bs) (h : s.changesOnly t bs) : s.changesOnly (t.latch e) bs :=
  changes_setEvu _ hb h

theorem changes_latchIf (b : Bool) (e : Event) (hb : Block.evu ∈ bs) (h : s.changesOnly t bs) :
    s.changesOnly (t.latchIf b e) bs := changes_setEvu _ hb h

theorem changes_emit (o : Output) (hb : Block.outputs ∈ bs) (h : s.changesOnly t bs) : s.changesOnly (t.emit o) bs :=
  changes_setOutputs _ hb h

theorem changes_request (r : Requester) (run : Run) (hb : Block.warb ∈ bs) (h : s.changesOnly t bs) :
    s.changesOnly (t.request r run) bs := changes_setWarb_keeps _ hb rfl h

theorem changes_withdraw (r : Requester) (hb : Block.warb ∈ bs) (hg : Block.grant ∈ bs) (h : s.changesOnly t bs) :
    s.changesOnly (t.withdraw r) bs := changes_setWarb _ hb hg h

theorem changes_mapFrame (c : Ctx) (f : Frame → Frame) (hb : blockOf c ∈ bs) (hs : stallOf c ∈ bs)
    (h : s.changesOnly t bs) : s.changesOnly (t.mapFrame c f) bs := changes_setCtx c _ hb hs h

theorem blockOf_mem_plan (c : Ctx) : blockOf c ∈ planBlocks := by cases c <;> decide

theorem blockOf_mem_frame (c : Ctx) : blockOf c ∈ frameBlocks := by cases c <;> decide

theorem stallOf_mem_plan (c : Ctx) : stallOf c ∈ planBlocks := by cases c <;> decide

theorem stallOf_mem_frame (c : Ctx) : stallOf c ∈ frameBlocks := by cases c <;> decide

end Updates

section Planning

variable {s t : State}

/-- Requesting a row changes the arbiter at most (R142). -/
theorem changes_requestRow {bs : List Block} (c : Ctx) (y n : Nat) (raw : Bool) (hb : Block.warb ∈ bs)
    (h : s.changesOnly t bs) : s.changesOnly (t.requestRow c y n raw) bs := by
  unfold State.requestRow; split
  · exact h
  · exact changes_request _ _ hb h

theorem changes_tryEmit {bs : List Block} (c : Ctx) (hb : Block.warb ∈ bs) (h : s.changesOnly t bs) :
    s.changesOnly (t.tryEmit c) bs := by
  unfold State.tryEmit; split
  · split
    · exact changes_requestRow _ _ _ _ hb h
    · exact h
  · exact h

/-- Obtaining a band changes the context, the arbiter and the events at most (R141). -/
theorem changes_obtainBand (c : Ctx) (id : Nat) (r : BandRecord) (h : s.changesOnly t planBlocks) :
    s.changesOnly (t.obtainBand c id r) planBlocks := by
  unfold State.obtainBand; split
  · exact h
  · exact changes_tryEmit _ (by decide) (changes_latchIf _ _ (by decide) (changes_setCtx _ _ (blockOf_mem_plan c) (stallOf_mem_plan c) h))

theorem changes_holdEntries {bs : List Block} (kept : List EpochEntry) (hm : Block.mept ∈ bs) (hb : Block.bpln ∈ bs)
    (h : s.changesOnly t bs) : s.changesOnly (t.holdEntries kept) bs := changes_setBpln _ hb (changes_setMept _ hm h)

theorem changes_examineEntries {bs : List Block} (hm : Block.mept ∈ bs) (hb : Block.bpln ∈ bs)
    (h : s.changesOnly t bs) : s.changesOnly t.examineEntries bs := changes_holdEntries _ hm hb h

theorem changes_swapProfiles (h : s.changesOnly t planBlocks) : s.changesOnly t.swapProfiles planBlocks :=
  changes_latch _ (by decide) (changes_setBpln _ (by decide) (changes_setPsto _ (by decide) h))

theorem changes_answer (c : Ctx) (id : Nat) (r : BandRecord) (h : s.changesOnly t planBlocks) :
    s.changesOnly (t.answer c id r) planBlocks := by
  unfold State.answer; split
  · exact changes_obtainBand _ _ _ (changes_setBpln _ (by decide) h)
  · exact h

/-- Completing a band changes the planning blocks at most (R96). -/
theorem changes_finishBand (e : EpochEntry) (b : Nat) (tb : Time) (est : Option Estimate) (d w : Bool)
    (h : s.changesOnly t planBlocks) : s.changesOnly (t.finishBand e b tb est d w) planBlocks :=
  changes_answer _ _ _ (changes_answer _ _ _ (changes_latchIf _ _ (by decide) (changes_setBpln _ (by decide)
    (changes_setMept _ (by decide) h))))

theorem changes_beginBand (b : Nat) (h : s.changesOnly t planBlocks) : s.changesOnly (t.beginBand b) planBlocks := by
  unfold State.beginBand
  simp only
  split
  · exact changes_setBpln _ (by decide) (changes_swapProfiles h)
  · exact changes_setBpln _ (by decide) h

/-- The contexts that resume restart their stall timers, and nothing else changes (R149). -/
theorem changes_resumeWaiters {bs : List Block} (h0 : Block.stall0 ∈ bs) (h1 : Block.stall1 ∈ bs)
    (h : s.changesOnly t bs) : s.changesOnly t.resumeWaiters bs := by
  have one : ∀ (c : Ctx) {u : State}, stallOf c ∈ bs → s.changesOnly u bs → s.changesOnly (u.resumeWaiter c) bs := by
    intro c u hs hu
    unfold State.resumeWaiter; split
    · have he : ((u.ctx c).mapFrame fun f => f.restart u.time).unstalled = (u.ctx c).unstalled := by
        unfold Context.unstalled Context.mapFrame; cases (u.ctx c).frame <;> rfl
      intro b hn
      have := hu b hn
      cases c <;> cases b <;> first | exact this | exact he.trans this | exact absurd hs hn
    · exact hu
  exact one .ctx1 h1 (one .ctx0 h0 h)

theorem changes_askBand (e : EpochEntry) (b : Nat) (h : s.changesOnly t planBlocks) :
    s.changesOnly (t.askBand e b) planBlocks := by
  unfold State.askBand
  simp only
  split
  · split
    · exact changes_finishBand _ _ _ _ _ _ h
    · split
      · exact changes_finishBand _ _ _ _ _ _ (changes_resumeWaiters (by decide) (by decide) h)
      · exact changes_setBpln _ (by decide) h
  · exact changes_finishBand _ _ _ _ _ _ h

theorem changes_planOne (e : EpochEntry) (b : Nat) (h : s.changesOnly t planBlocks) :
    s.changesOnly (t.planOne e b) planBlocks := changes_askBand _ _ (changes_beginBand _ h)

theorem changes_planRun : ∀ (n : Nat) {t : State}, s.changesOnly t planBlocks → s.changesOnly (planRun n t) planBlocks
  | 0, _, h => h
  | n + 1, t, h => by
    unfold planRun
    split
    · split
      · exact h
      · split
        · exact h
        · exact changes_planRun n (changes_planOne _ _ h)
    · exact h

/-- A run of planning changes the planning blocks at most (R95, R97). -/
theorem changes_plan (h : s.changesOnly t planBlocks) : s.changesOnly t.plan planBlocks := changes_planRun _ h

theorem changes_requestBand (c : Ctx) (id b : Nat) (h : s.changesOnly t planBlocks) :
    s.changesOnly (t.requestBand c id b) planBlocks := by
  unfold State.requestBand; split
  · exact changes_obtainBand _ _ _ h
  · exact changes_plan (changes_setBpln _ (by decide) h)

theorem changes_requestNext (c : Ctx) (h : s.changesOnly t planBlocks) :
    s.changesOnly (t.requestNext c) planBlocks := by
  unfold State.requestNext; split
  · exact h
  · exact changes_requestBand _ _ _ h

/-- The end of a deferral changes the planning blocks at most (section 3.3, R97). -/
theorem changes_endDeferral (est : Option Estimate) (w : Bool) (h : s.changesOnly t planBlocks) :
    s.changesOnly (t.endDeferral est w) planBlocks := by
  unfold State.endDeferral; split
  · exact h
  · split
    · exact h
    · exact changes_plan (changes_finishBand _ _ _ _ _ _ h)

theorem changes_waitOut (h : s.changesOnly t planBlocks) : s.changesOnly t.waitOut planBlocks := by
  unfold State.waitOut; split
  · exact h
  · exact changes_endDeferral _ _ h

theorem changes_offerInsertion (h : s.changesOnly t planBlocks) : s.changesOnly t.offerInsertion planBlocks := by
  unfold State.offerInsertion; split
  · exact h
  · split
    · exact h
    · exact changes_endDeferral _ _ h

theorem changes_abandonDeferral (h : s.changesOnly t planBlocks) : s.changesOnly t.abandonDeferral planBlocks :=
  changes_endDeferral _ _ h

theorem changes_lapse {bs : List Block} (c : Ctx) (hb : Block.bpln ∈ bs) (h : s.changesOnly t bs) :
    s.changesOnly (t.lapse c) bs := changes_setBpln _ hb h

theorem changes_makeRoom (h : s.changesOnly t planBlocks) : s.changesOnly t.makeRoom planBlocks := by
  unfold State.makeRoom; split
  · exact h
  · exact changes_latch _ (by decide) (changes_holdEntries _ (by decide) (by decide) h)

/-- An eviction from a list that is not empty removes one entry, and keeps the order of the others (R61). -/
theorem evict_spec (es : List EpochEntry) :
    (evict es).Sublist es ∧ (es ≠ [] → (evict es).length + 1 = es.length) ∧
      ∀ pre v post, es = pre ++ v :: post → v.idle = true → (∀ e ∈ pre, e.idle = false) → evict es = pre ++ post := by
  unfold evict
  split
  · rename_i h
    refine ⟨List.eraseP_sublist, fun hn => ?_, fun pre v post hs hv hp => ?_⟩
    · rw [List.length_eraseP, if_pos h]
      have := List.length_pos_iff.mpr hn
      omega
    · subst hs
      rw [List.eraseP_append_right _ (fun e he => by simp [hp e he]), List.eraseP_cons_of_pos hv]
  · rename_i h
    refine ⟨List.tail_sublist _, fun hn => ?_, fun pre v post hs hv hp => ?_⟩
    · have := List.length_pos_iff.mpr hn
      rw [List.length_tail]
      omega
    · exact absurd (List.any_eq_true.mpr ⟨v, by simp [hs], hv⟩) h

/-- The creation of an entry changes the table, the planner and the events at most (R60, R61). -/
theorem changes_createEntry (m : Time) (k : Bool) (f : Both Bool) (h : s.changesOnly t planBlocks) :
    s.changesOnly (t.createEntry m k f) planBlocks :=
  changes_setBpln _ (by decide) (changes_setMept _ (by decide) (changes_makeRoom h))

/-- Binding an entry changes the table, the planner and the events at most (R63, R64). -/
theorem changes_bindEpoch (c : Ctx) (h : s.changesOnly t planBlocks) :
    s.changesOnly (t.bindEpoch c).1 planBlocks := by
  unfold State.bindEpoch; split
  · exact changes_setMept _ (by decide) h
  · exact changes_createEntry _ _ _ (changes_latch _ (by decide) h)

end Planning

section Frames

variable {s t : State}

/-- A change within the planning blocks is one within the frame blocks. -/
theorem changes_plan_frame (h : s.changesOnly t planBlocks) : s.changesOnly t frameBlocks :=
  State.changesOnly_mono h (by decide)

/-- An operation that changes planning blocks only, after a change within the frame blocks. -/
theorem changes_planning {u : State} (h : s.changesOnly t frameBlocks) (k : t.changesOnly u planBlocks) :
    s.changesOnly u frameBlocks := State.changesOnly_trans h (changes_plan_frame k)

theorem changes_sendRead {bs : List Block} (r : UpRead) (f : ReadFate) (hp : Block.pb ∈ bs) (ho : Block.outputs ∈ bs)
    (h : s.changesOnly t bs) : s.changesOnly (t.sendRead r f) bs := by
  cases f
  · exact changes_emit _ ho (changes_setPb _ hp h)
  · exact changes_setPb _ hp h

theorem changes_releaseHolds {bs : List Block} (hp : Block.pb ∈ bs) (ho : Block.outputs ∈ bs) :
    ∀ (todo : List HoldEntry) (kept : List HoldEntry) {t : State}, s.changesOnly t bs →
      s.changesOnly (releaseHolds t kept todo) bs
  | [], _, _, h => changes_setPb _ hp h
  | x :: todo, kept, t, h => by
    unfold releaseHolds; split
    · exact changes_releaseHolds hp ho todo kept (changes_sendRead _ _ hp ho h)
    · exact changes_releaseHolds hp ho todo _ h

/-- Releasing reads changes the port bridge and the ports at most (R16). -/
theorem changes_releaseReads {bs : List Block} (hp : Block.pb ∈ bs) (ho : Block.outputs ∈ bs)
    (h : s.changesOnly t bs) : s.changesOnly t.releaseReads bs := changes_releaseHolds hp ho _ _ h

theorem changes_emptyHolds {bs : List Block} (c : Ctx) (hp : Block.pb ∈ bs) (ho : Block.outputs ∈ bs)
    (h : s.changesOnly t bs) : s.changesOnly (t.emptyHolds c) bs :=
  changes_releaseReads hp ho (changes_setPb _ hp h)

theorem changes_retireInHolds {bs : List Block} (c : Ctx) (y : Nat) (hp : Block.pb ∈ bs) (ho : Block.outputs ∈ bs)
    (h : s.changesOnly t bs) : s.changesOnly (t.retireInHolds c y) bs :=
  changes_releaseReads hp ho (changes_setPb _ hp h)

theorem changes_presentReport {bs : List Block} (hr : Block.rpw ∈ bs) (hw : Block.warb ∈ bs)
    (h : s.changesOnly t bs) : s.changesOnly t.presentReport bs := by
  unfold State.presentReport; split
  · exact changes_request _ _ hw (changes_setRpw _ hr h)
  · exact h

/-- Generating a report changes the report writer, the arbiter and the events at most (R176). -/
theorem changes_generate {bs : List Block} (r : Report) (hr : Block.rpw ∈ bs) (hw : Block.warb ∈ bs)
    (he : Block.evu ∈ bs) (h : s.changesOnly t bs) : s.changesOnly (t.generate r) bs := by
  unfold State.generate; split
  · exact h
  · unfold State.queueReport; split
    · exact changes_presentReport hr hw (changes_setRpw _ hr h)
    · exact changes_latch _ he (changes_setRpw _ hr h)

/-- Settings taking effect change the planning blocks at most (R132). -/
theorem changes_applySettings (c : Ctx) (st : Settings) (h : s.changesOnly t planBlocks) :
    s.changesOnly (t.applySettings c st) planBlocks := by
  have h1 : ∀ v b, s.changesOnly ((t.setCtx c v).latchIf b .depthLimit) planBlocks := fun v b =>
    changes_latchIf _ _ (by decide) (changes_setCtx _ _ (blockOf_mem_plan c) (stallOf_mem_plan c) h)
  unfold State.applySettings
  simp only
  split
  · exact h1 _ _
  · split
    · exact changes_plan (changes_examineEntries (by decide) (by decide) (h1 _ _))
    · exact changes_plan (changes_examineEntries (by decide) (by decide) (changes_setMept _ (by decide) (h1 _ _)))

theorem changes_redepth (c : Ctx) (h : s.changesOnly t frameBlocks) : s.changesOnly (t.redepth c) frameBlocks :=
  changes_latchIf _ _ (by decide) (changes_setCtx _ _ (blockOf_mem_frame c) (stallOf_mem_frame c) h)

theorem changes_applySplit (n : Nat) (h : s.changesOnly t frameBlocks) : s.changesOnly (t.applySplit n) frameBlocks :=
  changes_redepth _ (changes_redepth _ (changes_setLmem _ (by decide) h))

theorem changes_applyHeldSplit (h : s.changesOnly t frameBlocks) : s.changesOnly t.applyHeldSplit frameBlocks := by
  unfold State.applyHeldSplit; split
  · exact h
  · split
    · exact changes_applySplit _ (changes_setLmem _ (by decide) h)
    · exact h

theorem changes_applyNext (c : Ctx) (h : s.changesOnly t frameBlocks) : s.changesOnly (t.applyNext c) frameBlocks := by
  unfold State.applyNext; split
  · exact h
  · exact changes_planning (changes_setCtx _ _ (blockOf_mem_frame c) (stallOf_mem_frame c) h)
      (changes_applySettings _ _ (State.changesOnly_refl _ _))

/-- The end of a frame changes the frame blocks at most (R145, R148). -/
theorem changes_endFrame (c : Ctx) (f : Frame) (o : FrameOutcome) (h : s.changesOnly t frameBlocks) :
    s.changesOnly (t.endFrame c f o) frameBlocks := by
  unfold State.endFrame
  refine changes_applyHeldSplit (changes_applyNext c (changes_emptyHolds c (by decide) (by decide)
    (changes_setCtx _ _ (blockOf_mem_frame c) (stallOf_mem_frame c) ?_)))
  exact changes_planning (changes_examineEntries (by decide) (by decide) (changes_setMept _ (by decide)
    (changes_generate _ (by decide) (by decide) (by decide) h))) (changes_plan (State.changesOnly_refl _ _))

theorem changes_drain (c : Ctx) (h : s.changesOnly t frameBlocks) : s.changesOnly (t.drain c) frameBlocks := by
  have h1 : ∀ v, s.changesOnly (t.setCtx c v) frameBlocks := fun v => changes_setCtx _ _ (blockOf_mem_frame c) (stallOf_mem_frame c) h
  unfold State.drain; split
  · exact h
  · simp only
    split
    · split
      · exact changes_requestRow _ _ _ _ (by decide) (h1 _)
      · split
        · exact changes_endFrame _ _ _ (h1 _)
        · exact h1 _
    · exact h

theorem changes_beginAbort (c : Ctx) (o : FrameOutcome) (h : s.changesOnly t frameBlocks) :
    s.changesOnly (t.beginAbort c o) frameBlocks := by
  unfold State.beginAbort; split
  · exact changes_withdraw _ (by decide) (by decide) (changes_lapse _ (by decide) (changes_latch _ (by decide)
      (changes_setCtx _ _ (blockOf_mem_frame c) (stallOf_mem_frame c) h)))
  · exact h

/-- The two states a frame can abort in. -/
theorem CtxState.inFrame_iff (x : CtxState) : x.inFrame = true ↔ x = .running ∨ x = .finishing := by
  cases x <;> decide

/-- Where a frame can abort, the abort begins: the context is in ABORTING and its band request has lapsed (R146). -/
theorem State.beginAbort_aborting (c : Ctx) (o : FrameOutcome) (h : (t.ctx c).state.inFrame = true) :
    ((t.beginAbort c o).ctx c).state = .aborting ∧ (t.beginAbort c o).bpln.requests.get c = none := by
  unfold State.beginAbort
  rw [if_pos h]
  exact ⟨by cases c <;> rfl, by cases c <;> rfl⟩

/-- Where no frame can abort, an abort does nothing. -/
theorem State.beginAbort_resting (c : Ctx) (o : FrameOutcome) (h : (t.ctx c).state.inFrame = false) :
    t.beginAbort c o = t := by
  unfold State.beginAbort; rw [h]; rfl

/-- An abort changes the frame blocks at most (R146). -/
theorem changes_abort (c : Ctx) (o : FrameOutcome) (h : s.changesOnly t frameBlocks) :
    s.changesOnly (t.abort c o) frameBlocks := by
  unfold State.abort; split
  · exact changes_drain _ (changes_beginAbort _ _ h)
  · exact h

/-- The aborts of a RESET ALL change the frame blocks at most (R183). -/
theorem changes_abortBoth (o : FrameOutcome) (h : s.changesOnly t frameBlocks) :
    s.changesOnly (t.abortBoth o) frameBlocks := by
  have h1 := changes_beginAbort .ctx1 o (changes_beginAbort .ctx0 o h)
  unfold State.abortBoth
  split <;> split
  · exact changes_drain _ (changes_drain _ h1)
  · exact changes_drain _ h1
  · exact changes_drain _ h1
  · exact h1

theorem changes_finishIfComplete (c : Ctx) (h : s.changesOnly t frameBlocks) :
    s.changesOnly (t.finishIfComplete c) frameBlocks := by
  unfold State.finishIfComplete; split
  · exact h
  · exact changes_endFrame _ _ _ h

theorem changes_countStray (c : Ctx) (h : s.changesOnly t frameBlocks) :
    s.changesOnly (t.countStray c) frameBlocks := changes_setCtx _ _ (blockOf_mem_frame c) (stallOf_mem_frame c) h

theorem changes_acceptWrite (c : Ctx) (w : UpWrite) (h : s.changesOnly t frameBlocks) :
    s.changesOnly (t.acceptWrite c w) frameBlocks :=
  changes_tryEmit _ (by decide) (changes_setCtx _ _ (blockOf_mem_frame c) (stallOf_mem_frame c) h)

theorem changes_beginFrame (c : Ctx) (h : s.changesOnly t frameBlocks) :
    s.changesOnly (t.beginFrame c) frameBlocks :=
  changes_setCtx _ _ (blockOf_mem_frame c) (stallOf_mem_frame c) (changes_planning h
    (changes_plan (changes_bindEpoch c (State.changesOnly_refl _ _))))

theorem changes_passFrame (c : Ctx) (h : s.changesOnly t frameBlocks) :
    s.changesOnly (t.passFrame c) frameBlocks := by
  unfold State.passFrame
  exact changes_planning (changes_examineEntries (by decide) (by decide) (changes_setMept _ (by decide)
    (changes_generate _ (by decide) (by decide) (by decide) (changes_planning h
      (changes_plan (changes_bindEpoch c (State.changesOnly_refl _ _)))))))
    (changes_plan (State.changesOnly_refl _ _))

theorem changes_offerBusy (c : Ctx) (a : FrameArea) (w : UpWrite) (h : s.changesOnly t frameBlocks) :
    s.changesOnly (t.offerBusy c a w).2 frameBlocks := by
  unfold State.offerBusy; split
  · exact h
  · exact changes_countStray _ h

/-- An offer changes the frame blocks at most (R11, R135 to R140). -/
theorem changes_offer (c : Ctx) (a : FrameArea) (w : UpWrite) (h : s.changesOnly t frameBlocks) :
    s.changesOnly (t.offer c a w).2 frameBlocks := by
  unfold State.offer
  split
  · exact h
  · split
    · unfold State.offerPass
      simp only
      split
      · exact changes_passFrame _ h
      · exact h
    · unfold State.offerIdle
      simp only
      split
      · exact changes_countStray _ h
      · split
        · exact changes_beginFrame _ h
        · split
          · exact changes_finishIfComplete _ (changes_planning (changes_acceptWrite _ _ (changes_beginFrame _ h))
              (changes_requestNext _ (State.changesOnly_refl _ _)))
          · exact changes_countStray _ (changes_abort _ _ (changes_beginFrame _ h))
  · unfold State.offerRunning
    split
    · exact h
    · split
      · split
        · exact changes_finishIfComplete _ (changes_acceptWrite _ _ h)
        · exact h
      · exact changes_offerBusy _ _ _ (changes_abort _ _ h)
  · exact changes_offerBusy _ _ _ h
  · exact changes_offerBusy _ _ _ h

/-- A context's stall timer restarting or stopping changes nothing else of the context (R149). -/
theorem changes_settleStall {bs : List Block} (c : Ctx) (hs : stallOf c ∈ bs) (h : s.changesOnly t bs) :
    s.changesOnly (t.settleStall c) bs := by
  have hu : ((t.ctx c).mapFrame fun f => f.restall (t.stallRuns c) t.time).unstalled = (t.ctx c).unstalled := by
    unfold Context.unstalled Context.mapFrame; cases (t.ctx c).frame <;> rfl
  intro b hn
  have := h b hn
  cases c <;> cases b <;> first | exact this | exact hu.trans this | exact absurd hs hn

/-- The end of a command keeps the arbiter's runs, issued lists and priorities (R156, R158). -/
theorem Arbiter.settle_keeps (a : Arbiter) :
    a.settle.runs = a.runs ∧ a.settle.issued = a.issued ∧ a.settle.prio = a.prio := by
  unfold Arbiter.settle Arbiter.grant Arbiter.retime
  split
  · exact ⟨rfl, rfl, rfl⟩
  · cases a.choose <;> exact ⟨rfl, rfl, rfl⟩

/-- A withdrawal leaves a run that has begun, and takes away one that has not, with the timer where no requester is left
above the owner (R154, R158 (3)). -/
theorem Arbiter.withdraw_run (a : Arbiter) (r : Requester) (run : Run) (h : a.runs.get r = some run) :
    (run.started = true → a.withdraw r = a) ∧
      (run.started = false → (a.withdraw r).runs = a.runs.set r none ∧ (a.withdraw r).issued = a.issued ∧
        ((a.withdraw r).challenged = false → (a.withdraw r).timer = none)) := by
  unfold Arbiter.withdraw
  rw [h]
  refine ⟨fun hs => by simp [hs], fun hs => ?_⟩
  simp only [hs, Bool.false_eq_true, if_false]
  refine ⟨rfl, rfl, fun hc => ?_⟩
  unfold Arbiter.unchallenge at hc ⊢
  exact if_neg (by simpa [Arbiter.challenged, Arbiter.waiters, Arbiter.waiting] using hc)

/-- What a suspension needs (R159): an owner other than PASS, a count at L or above, and a burst boundary. -/
theorem Arbiter.suspensionDue_iff (a : Arbiter) :
    a.suspensionDue = true ↔ ∃ o n run, a.owner = some o ∧ a.timer = some n ∧ o ≠ .pass ∧ a.latency ≤ n ∧
      a.runs.get o = some run ∧ run.started = true ∧ a.begun = false := by
  unfold Arbiter.suspensionDue Arbiter.atBoundary
  cases ho : a.owner with
  | none => simp
  | some o => cases ht : a.timer with
    | none => simp
    | some n => cases hr : a.runs.get o with
      | none => simp [hr]
      | some run => simp [hr, and_assoc]

theorem Arbiter.settle_ungranted (a : Arbiter) : a.settle.ungranted = a.ungranted := by
  unfold Arbiter.settle Arbiter.grant Arbiter.retime
  split
  · rfl
  · split <;> rfl

/-- A suspension that is due changes the grant state at most (R159). -/
theorem Arbiter.suspendIfDue_ungranted (a : Arbiter) : a.suspendIfDue.ungranted = a.ungranted := by
  unfold Arbiter.suspendIfDue
  split
  · exact Arbiter.settle_ungranted a.suspend
  · rfl

/-- An ARBITER record changes the settings and the grant state at most (R160). -/
theorem Arbiter.configure_ungranted (a : Arbiter) (prio : Four Nat) (preempt : Bool) (latency : Nat) :
    (a.configure prio preempt latency).ungranted =
      { a.ungranted with prio := prio, preempt := preempt, latency := latency } :=
  (Arbiter.suspendIfDue_ungranted _).trans (Arbiter.settle_ungranted _)

/-- The end of a command changes the contexts' stall timers and the grant state at most (R149, R156). -/
theorem changes_settle {bs : List Block} (h0 : Block.stall0 ∈ bs) (h1 : Block.stall1 ∈ bs) (hg : Block.grant ∈ bs)
    (h : s.changesOnly t bs) : s.changesOnly t.settle bs := by
  have h2 := changes_settleStall .ctx1 h1 (changes_settleStall .ctx0 h0 h)
  intro b hn
  have := h2 b hn
  unfold State.settle
  cases b <;> first | exact this | exact (Arbiter.settle_ungranted _).trans this | exact absurd hg hn

end Frames

section Monitor

variable {s t : State}

/-- The blocks that a character changes: the receiver, the monitor, the track, and those of planning. -/
def lineBlocks : List Block := [.llr, .pmon, .ptrk, .mept, .psto, .bpln, .ctx0, .ctx1, .stall0, .stall1, .warb, .evu]

theorem changes_lining {u : State} (h : s.changesOnly t lineBlocks) (k : t.changesOnly u planBlocks) :
    s.changesOnly u lineBlocks := State.changesOnly_trans h (State.changesOnly_mono k (by decide))

theorem changes_insertSample (x : Sample) (h : s.changesOnly t lineBlocks) :
    s.changesOnly (t.insertSample x) lineBlocks := changes_setPmon _ (by decide) (changes_setPtrk _ (by decide) h)

theorem changes_advanceTimely (n : Nat) (h : s.changesOnly t lineBlocks) :
    s.changesOnly (t.advanceTimely n) lineBlocks := changes_latchIf _ _ (by decide) (changes_setPmon _ (by decide) h)

theorem changes_emptyRun (h : s.changesOnly t lineBlocks) : s.changesOnly t.emptyRun lineBlocks :=
  changes_setPmon _ (by decide) h

theorem changes_startAcquisition (x : Sample) (h : s.changesOnly t lineBlocks) :
    s.changesOnly (t.startAcquisition x) lineBlocks :=
  changes_advanceTimely _ (changes_emptyRun (changes_insertSample _ (changes_setPtrk _ (by decide) h)))

theorem changes_rehome (x : Sample) (h : s.changesOnly t lineBlocks) : s.changesOnly (t.rehome x) lineBlocks := by
  have h1 := changes_latch .posRehome (by decide)
    (changes_emptyRun (changes_insertSample x (changes_setPtrk t.ptrk.clear (by decide) h)))
  unfold State.rehome
  simp only
  split
  · exact changes_advanceTimely _ h1
  · exact h1

theorem changes_judgeHeld (x : Sample) (h : s.changesOnly t lineBlocks) :
    s.changesOnly (t.judgeHeld x) lineBlocks := by
  unfold State.judgeHeld
  split
  · exact changes_setPmon _ (by decide) h
  · split
    · unfold State.judgeImplausible
      simp only
      have h1 := changes_latch .posImplausible (by decide)
        (changes_setPmon { t.pmon with implausible := t.pmon.implausible + 1,
                                       run := some (extendRun t.pmon.run x.focus t.pmon.jump) } (by decide) h)
      split
      · exact changes_lining (changes_rehome _ h1) (changes_offerInsertion (State.changesOnly_refl _ _))
      · exact h1
    · refine changes_lining ?_ (changes_offerInsertion (State.changesOnly_refl _ _))
      unfold State.acceptSample
      simp only
      split
      · exact changes_advanceTimely _ (changes_emptyRun (changes_insertSample _ h))
      · exact changes_emptyRun (changes_insertSample _ h)

/-- Judging a candidate changes the monitor, the track and the planning blocks at most (R29 to R34). -/
theorem changes_judge (k : Candidate) (h : s.changesOnly t lineBlocks) : s.changesOnly (t.judge k) lineBlocks := by
  have h1 := changes_setPmon (t.pmon.note k.arrival) (by decide) h
  unfold State.judge
  simp only
  split
  · exact changes_latchIf _ _ (by decide) (changes_setPmon _ (by decide) h1)
  · split
    · exact changes_lining (changes_startAcquisition _ h1) (changes_offerInsertion (State.changesOnly_refl _ _))
    · exact changes_judgeHeld _ h1

/-- A complete telegram changes the line blocks at most (R23). -/
theorem changes_telegram (bytes : List Byte) (h : s.changesOnly t lineBlocks) :
    s.changesOnly (t.telegram bytes) lineBlocks := by
  unfold State.telegram
  split
  · exact changes_latchIf _ _ (by decide) (changes_setLlr _ (by decide) h)
  · split
    · exact changes_setLlr _ (by decide) h
    · exact changes_judge _ (changes_setLlr _ (by decide) h)

/-- A character changes the line blocks at most (R21, R22). -/
theorem changes_character (b : Byte) (fe : Bool) (h : s.changesOnly t lineBlocks) :
    s.changesOnly (t.character b fe) lineBlocks := by
  have hunt : ∀ u : State, s.changesOnly u lineBlocks → s.changesOnly (u.huntCharacter b fe) lineBlocks := by
    intro u hu; unfold State.huntCharacter; split
    · exact changes_setLlr _ (by decide) hu
    · exact hu
  unfold State.character
  split
  · exact hunt _ h
  · split
    · exact hunt _ (changes_setLlr _ (by decide) h)
    · unfold State.assembleCharacter
      split
      · exact changes_setLlr _ (by decide) h
      · split
        · exact changes_setLlr _ (by decide) h
        · exact changes_telegram _ (changes_setLlr _ (by decide) h)

/-- The expiry of the timing window changes the line blocks at most (R35). -/
theorem changes_expireWindow (h : s.changesOnly t lineBlocks) : s.changesOnly t.expireWindow lineBlocks :=
  changes_lining (changes_latch _ (by decide) (changes_setPmon _ (by decide) h))
    (changes_abandonDeferral (State.changesOnly_refl _ _))

end Monitor

end Sys2Proof.Machine
end

