-- ==== Sys2Proof/Laws/Commands.lean ====
section
/-! SUPPORT. What the operations that commands are made of can change: records, slots, the head of the write channel,
runs that end, responses, and the image. -/

namespace Sys2Proof.Machine

variable {s t : State}

/-! ### Time -/

/-- The start of a command changes the time, the wait for the first character and the ports at most. -/
theorem changes_begin (dt : Nat) : s.changesOnly (s.begin dt) [.time, .line, .outputs] := by
  intro b hb
  unfold State.begin State.advance
  split <;> cases b <;> first | rfl | simp at hb

/-- Outside reset a command's microseconds pass and its ports show nothing yet. -/
theorem State.begin_eq (dt : Nat) (h : s.stl.part ≠ .inReset) :
    s.begin dt = ((s.setTime (s.time + BitVec.ofNat 32 dt)).setLineWait (s.lineWait - dt)).setOutputs [] := by
  unfold State.begin State.advance; rw [if_neg h]

/-- A unit that takes records belongs to a part in READY. -/
theorem State.takesRecords_ready (h : s.takesRecords = true) : s.stl.part = .ready := by
  unfold State.takesRecords State.isReady at h; simp at h; exact h.1.1

theorem State.begin_keeps_takesRecords (dt : Nat) (h : s.takesRecords = true) : (s.begin dt).takesRecords = true := by
  rw [State.begin_eq dt (by rw [State.takesRecords_ready h]; decide)]; exact h

/-- A record that reaches the unit has its effect after its microseconds. -/
theorem State.recordRow_eq (dt : Nat) (f : State → State) (h : s.takesRecords = true) :
    s.recordRow dt f = f (s.begin dt) := by
  unfold State.recordRow; rw [if_pos (State.begin_keeps_takesRecords dt h)]

/-! ### Records -/

/-- The blocks that TRACKING and a TRACKING reset change. -/
def trackingBlocks : List Block :=
  [.pmon, .fest, .llr, .ptrk, .mept, .psto, .bpln, .ctx0, .ctx1, .stall0, .stall1, .warb, .evu]

theorem changes_plan_tracking (u : State) (h : s.changesOnly t trackingBlocks) (k : t.changesOnly u planBlocks) :
    s.changesOnly u trackingBlocks := State.changesOnly_trans h (State.changesOnly_mono k (by decide))

theorem changes_trackingExpiry (h : s.changesOnly t trackingBlocks) : s.changesOnly t.trackingExpiry trackingBlocks := by
  unfold State.trackingExpiry; split
  · exact State.changesOnly_trans h (State.changesOnly_mono (changes_expireWindow (State.changesOnly_refl _ _)) (by decide))
  · exact h

theorem changes_trackingDeferral (h : s.changesOnly t trackingBlocks) :
    s.changesOnly t.trackingDeferral trackingBlocks := by
  unfold State.trackingDeferral; split
  · exact h
  · split
    · split
      · exact changes_plan_tracking _ h (changes_waitOut (State.changesOnly_refl _ _))
      · exact h
    · exact changes_plan_tracking _ h (changes_endDeferral _ _ (State.changesOnly_refl _ _))

/-- A TRACKING record changes the tracking blocks at most (R36, R54, R56). -/
theorem changes_track (p : Params) (h : s.changesOnly t trackingBlocks) : s.changesOnly (t.track p) trackingBlocks := by
  have h1 : s.changesOnly (t.setTracking p) trackingBlocks :=
    changes_setFest _ (by decide) (changes_setPmon _ (by decide) h)
  unfold State.track
  simp only
  split
  · split
    · exact changes_trackingDeferral (changes_trackingExpiry h1)
    · exact changes_trackingExpiry (changes_trackingDeferral h1)
  · exact changes_trackingExpiry (changes_trackingDeferral h1)

/-- A TRACKING reset changes the tracking blocks at most (R38, R112). -/
theorem changes_resetTracking (h : s.changesOnly t trackingBlocks) : s.changesOnly t.resetTracking trackingBlocks :=
  changes_plan_tracking _ (changes_setPtrk _ (by decide) (changes_setLlr _ (by decide) (changes_setPmon _ (by decide)
    (changes_setBpln _ (by decide) h)))) (changes_abandonDeferral (State.changesOnly_refl _ _))

/-- Everything but the time and the queue. -/
def workBlocks : List Block :=
  [.stl, .pb, .llr, .pmon, .ptrk, .fest, .mept, .psto, .bpln, .lmem, .ctx0, .ctx1, .stall0, .stall1, .warb, .grant,
    .crec, .evu, .rpw, .outputs]

theorem changes_working {u : State} {bs : List Block} (h : s.changesOnly t workBlocks) (k : t.changesOnly u bs)
    (hb : ∀ b ∈ bs, b ∈ workBlocks := by decide) : s.changesOnly u workBlocks :=
  State.changesOnly_trans h (State.changesOnly_mono k hb)

/-- Settings changed by a record change the planning blocks at most (R131). -/
theorem changes_changeSettings (c : Ctx) (f : Settings → Settings) (h : s.changesOnly t planBlocks) :
    s.changesOnly (t.changeSettings c f) planBlocks := by
  unfold State.changeSettings; split
  · exact changes_applySettings _ _ h
  · exact changes_setCtx _ _ (blockOf_mem_plan c) (stallOf_mem_plan c) h

/-- A CONTEXT_OPTICS record changes the planning blocks at most (R131). -/
theorem changes_recordOptics (c : Ctx) (p : Params) (h : s.changesOnly t planBlocks) :
    s.changesOnly (t.recordOptics c p) planBlocks :=
  changes_setCtx _ _ (blockOf_mem_plan c) (stallOf_mem_plan c) (changes_changeSettings c _ h)

/-- A LINE_MEMORY record changes the frame blocks at most (R129). -/
theorem changes_recordLineMemory (p : Params) (h : s.changesOnly t frameBlocks) :
    s.changesOnly (t.recordLineMemory p) frameBlocks := by
  unfold State.recordLineMemory; split
  · exact changes_applySplit _ h
  · exact changes_setLmem _ (by decide) h

/-- A RESET record of scope ALL (R183). -/
theorem changes_recordResetAll (h : s.changesOnly t workBlocks) : s.changesOnly t.recordResetAll workBlocks := by
  unfold State.recordResetAll; split
  · exact changes_working (changes_setStl _ (by decide) h) (changes_abortBoth _ (State.changesOnly_refl _ _))
  · exact h

theorem changes_resetEffect (scope : Nat) (h : s.changesOnly t workBlocks) :
    s.changesOnly (resetEffect scope t) workBlocks := by
  unfold resetEffect; split
  · exact changes_recordResetAll h
  · exact changes_working h (changes_abort _ _ (State.changesOnly_refl _ _))
  · exact changes_working h (changes_abort _ _ (State.changesOnly_refl _ _))
  · exact changes_working h (changes_resetTracking (State.changesOnly_refl _ _))
  · exact changes_setPsto _ (by decide) h

/-- A record's effect changes neither the time nor the queue (Table 10.2). -/
theorem changes_recordEffect (kind target : Nat) (p : Params) (h : s.changesOnly t workBlocks) :
    s.changesOnly (recordEffect kind target p t) workBlocks := by
  unfold recordEffect; split
  · exact changes_setMept _ (by decide) h
  · exact changes_working h (changes_changeSettings _ _ (State.changesOnly_refl _ _))
  · exact changes_working h (changes_recordOptics _ _ (State.changesOnly_refl _ _))
  · exact changes_working h (changes_recordLineMemory _ (State.changesOnly_refl _ _))
  · exact changes_working h (changes_track _ (State.changesOnly_refl _ _))
  · exact changes_setLlr _ (by decide) (changes_setBpln _ (by decide) h)
  · exact changes_setPsto _ (by decide) (changes_setPb _ (by decide) h)
  · exact changes_latch _ (by decide) (changes_setPsto _ (by decide) h)
  · exact changes_setEvu _ (by decide) h
  · exact changes_setCrec _ (by decide) (changes_setEvu _ (by decide) h)
  · exact changes_latchIf _ _ (by decide) (changes_setRpw _ (by decide) h)
  · exact changes_setWarb _ (by decide) (by decide) h
  · exact changes_generate _ (by decide) (by decide) (by decide) h
  · exact changes_resetEffect _ h

/-- An examined slot changes neither the time nor the queue (R165, R166). -/
theorem changes_examineSlot (slot : Slot) (h : s.changesOnly t workBlocks) :
    s.changesOnly (t.examineSlot slot) workBlocks := by
  unfold State.examineSlot; split
  · exact changes_latchIf _ _ (by decide) (changes_setCrec _ (by decide) h)
  · exact changes_setCrec _ (by decide) (changes_recordEffect _ _ _ h)

/-- What a slot leaves takes its course in the stall timers and the arbiter (R165). -/
theorem changes_completeSlot (h : s.changesOnly t workBlocks) : s.changesOnly t.completeSlot workBlocks := by
  exact changes_setWarb _ (by decide) (by decide) (changes_settle (by decide) (by decide) (by decide) h)

theorem changes_examineSlots : ∀ (xs : List Slot) {t : State}, s.changesOnly t workBlocks →
    s.changesOnly (examineSlots xs t) workBlocks
  | [], _, h => h
  | [x], t, h => by
    unfold examineSlots; split
    · exact h
    · exact changes_examineSlot x h
  | x :: y :: xs, t, h => by
    unfold examineSlots; split
    · exact h
    · exact changes_examineSlots (y :: xs) (changes_completeSlot (changes_examineSlot x h))

/-! ### The head of the write channel -/

theorem changes_popResponses {bs : List Block} (hp : Block.pb ∈ bs) (ho : Block.outputs ∈ bs) :
    ∀ (l : List RespEntry) {t : State}, s.changesOnly t bs → s.changesOnly (Sys2Proof.Machine.popResponses t l) bs
  | [], _, h => changes_setPb _ hp h
  | x :: l, t, h => by
    unfold Sys2Proof.Machine.popResponses; split
    · exact changes_popResponses hp ho l (changes_emit _ ho h)
    · exact changes_setPb _ hp h

theorem changes_presentPass {bs : List Block} (hw : Block.warb ∈ bs) (h : s.changesOnly t bs) :
    s.changesOnly t.presentPass bs := by
  unfold State.presentPass; split
  · exact changes_request _ _ hw h
  · exact h

/-- A write taken as a pass write changes the port bridge and the arbiter's runs at most (R8). -/
theorem changes_passHead {bs : List Block} (w : UpWrite) (hp : Block.pb ∈ bs) (hw : Block.warb ∈ bs)
    (h : s.changesOnly t bs) : s.changesOnly (t.passHead w) bs :=
  changes_presentPass hw (changes_setPb _ hp (changes_setPb _ hp h))

/-- A write taken as an intercepted one changes the port bridge and the ports at most (R11 (1)). -/
theorem changes_interceptHead {bs : List Block} (w : UpWrite) (hp : Block.pb ∈ bs) (ho : Block.outputs ∈ bs)
    (h : s.changesOnly t bs) : s.changesOnly (t.interceptHead w) bs :=
  changes_popResponses hp ho _ (changes_setPb _ hp (changes_setPb _ hp h))

theorem changes_captureProfile {bs : List Block} (base : Nat) (w : UpWrite) (hp : Block.psto ∈ bs) (he : Block.evu ∈ bs)
    (h : s.changesOnly t bs) : s.changesOnly (t.captureProfile base w) bs := by
  unfold State.captureProfile; split
  · exact changes_latch _ he h
  · exact changes_setPsto _ hp h

theorem changes_takeAlong (w : UpWrite) (r : Route) (h : s.changesOnly t workBlocks) :
    s.changesOnly (t.takeAlong w r) workBlocks := by
  cases r with
  | pass => exact changes_passHead _ (by decide) (by decide) h
  | control => exact changes_examineSlots _ (changes_passHead _ (by decide) (by decide) h)
  | profile base =>
    exact changes_passHead _ (by decide) (by decide) (changes_captureProfile _ _ (by decide) (by decide) h)
  | offered c a =>
    have ho := changes_working h (changes_offer c a w (State.changesOnly_refl t frameBlocks))
    unfold State.takeAlong
    simp only
    split
    · rename_i s' e; rw [e] at ho; exact changes_interceptHead _ (by decide) (by decide) ho
    · rename_i s' e; rw [e] at ho; exact changes_passHead _ (by decide) (by decide) ho
    · rename_i s' e; rw [e] at ho; exact changes_setPb _ (by decide) ho

/-- Dealing with the head of the write channel changes neither the time nor the queue (R1, R11). -/
theorem changes_offerHead : ∀ (n : Nat) {t : State}, s.changesOnly t workBlocks →
    s.changesOnly (Sys2Proof.Machine.offerHead n t) workBlocks
  | 0, _, h => h
  | n + 1, t, h => by
    unfold Sys2Proof.Machine.offerHead; split
    · exact h
    · split
      · exact h
      · simp only
        split
        · exact changes_offerHead n (changes_takeAlong _ _ h)
        · exact changes_takeAlong _ _ h

theorem changes_reofferAfterIdle (h : s.changesOnly t workBlocks) : s.changesOnly t.reofferAfterIdle workBlocks := by
  unfold State.reofferAfterIdle; split
  · exact changes_offerHead _ h
  · exact h

/-! ### Runs and responses -/

/-- The end of a run changes the frame blocks at most (R157). -/
theorem changes_endRun (b : RunBody) (h : s.changesOnly t frameBlocks) : s.changesOnly (t.endRun b) frameBlocks := by
  unfold State.endRun; split
  · exact changes_presentPass (by decide) (changes_setPb _ (by decide) h)
  · rename_i c y
    have h1 := fun f => changes_mapFrame c f (blockOf_mem_frame c) (stallOf_mem_frame c) h
    unfold State.rowEmitted State.afterRow
    split
    · exact h1 _
    · split
      · exact changes_drain _ (h1 _)
      · split
        · exact changes_planning (h1 _) (changes_requestNext _ (State.changesOnly_refl _ _))
        · exact changes_mapFrame _ _ (blockOf_mem_frame c) (stallOf_mem_frame c) (h1 _)
  · exact changes_drain _ (changes_mapFrame _ _ (blockOf_mem_frame _) (stallOf_mem_frame _) h)
  · exact changes_presentReport (by decide) (by decide) (changes_setRpw _ (by decide) h)

/-- A response handed to its requester changes the frame blocks at most (R161, R162). -/
theorem changes_handResponse (b : IssuedBurst) (v : Resp) (r : Requester) (h : s.changesOnly t frameBlocks) :
    s.changesOnly (t.handResponse b v r) frameBlocks := by
  have row : ∀ c, s.changesOnly (t.rowResponse c b v) frameBlocks := by
    intro c
    have he : s.changesOnly (t.countError v) frameBlocks := by
      unfold State.countError; split
      · exact changes_latch _ (by decide) (changes_setWarb _ (by decide) (by decide) h)
      · exact h
    unfold State.rowResponse; split
    · unfold State.retireRow
      simp only
      have hr := changes_retireInHolds c b.row (by decide) (by decide)
        (changes_mapFrame c (fun f => { f with unretired := f.unretired.filter fun r => decide (r ≠ b.row) })
          (blockOf_mem_frame c) (stallOf_mem_frame c) he)
      split
      · exact changes_drain _ hr
      · exact changes_finishIfComplete _ hr
    · exact he
  unfold State.handResponse; split
  · exact changes_popResponses (by decide) (by decide) _ (changes_setPb _ (by decide) h)
  · exact row _
  · exact row _
  · unfold State.reportResponse
    simp only
    split
    · exact changes_presentReport (by decide) (by decide) (changes_setRpw _ (by decide) (changes_latchIf _ _ (by decide) h))
    · exact changes_latchIf _ _ (by decide) h

/-! ### The image -/

/-- The entry to READY changes the loader, the events, the report writer, the arbiter's runs and the wait for the first
character at most (R188). -/
theorem changes_enterReady {bs : List Block} (hl : Block.stl ∈ bs) (he : Block.evu ∈ bs) (hr : Block.rpw ∈ bs)
    (hw : Block.warb ∈ bs) (hn : Block.line ∈ bs) (h : s.changesOnly t bs) : s.changesOnly t.enterReady bs :=
  changes_presentReport hr hw (changes_setLineWait _ hn (changes_setEvu _ he (changes_latchIf _ _ he
    (changes_setStl _ hl h))))

/-! ### The set of events, and the checks of a commit -/

/-- Latching adds the event to the set, whatever the line does (R171). -/
theorem EventUnit.latch_set (u : EventUnit) (ready : Bool) (e : Event) : (u.latch ready e).set = u.set ||| e.bit := by
  unfold EventUnit.latch; simp only; split <;> (try split) <;> rfl

/-- Positions rise exactly if each is below the next (R85). -/
theorem increasing_iff (f : Nat → Nat) : ∀ n, increasing f n = true ↔ ∀ i, i + 1 < n → f i < f (i + 1)
  | 0 => by simp [increasing]
  | 1 => by simp [increasing]
  | n + 2 => by
    simp only [increasing, Bool.and_eq_true, decide_eq_true_eq, increasing_iff f (n + 1)]
    refine ⟨fun ⟨h, k⟩ i hi => ?_, fun h => ⟨h n (by omega), fun i hi => h i (by omega)⟩⟩
    by_cases e : i = n
    · subst e; exact h
    · exact k i (by omega)

/-- Granules are covered exactly if the mark of each is set (R82). -/
theorem coveredBelow_iff (c : BitVec 128) : ∀ n, coveredBelow c n = true ↔ ∀ g, g < n → c.getLsbD g = true
  | 0 => by simp [coveredBelow]
  | n + 1 => by
    simp only [coveredBelow, Bool.and_eq_true, coveredBelow_iff c n]
    refine ⟨fun ⟨h, k⟩ g hg => ?_, fun h => ⟨h n (by omega), fun g hg => h g (by omega)⟩⟩
    by_cases e : g = n
    · subst e; exact h
    · exact k g (by omega)

/-- The check sum of a table is the sum of its words modulo 2^32 (R83). -/
theorem wordSum_eq (t : Table) (n : Nat) :
    wordSum t n = BitVec.ofNat 32 ((List.range n).map fun k => t.readLE (4 * k) 4).sum := by
  induction n with
  | zero => rfl
  | succ n ih => rw [wordSum, ih, List.range_succ]; simp [BitVec.ofNat_add]

end Sys2Proof.Machine
end

