-- ==== Sys2Proof/Laws/Memory.lean ====
section
/-! SUPPORT. The memory of a profile table: a read after a write, and that every operation keeps the canonical form. -/

namespace Sys2Proof.Machine

/-- A canonical form above a higher bound is one above a lower bound. -/
theorem Table.wfFrom_mono {lo lo' : Nat} (h : lo' ≤ lo) : ∀ t : Table, Table.wfFrom lo t = true → Table.wfFrom lo' t = true
  | [], _ => rfl
  | (a, b) :: t, hw => by
    simp only [Table.wfFrom, Bool.and_eq_true, decide_eq_true_eq] at hw ⊢
    exact ⟨⟨⟨by omega, hw.1.1.2⟩, hw.1.2⟩, hw.2⟩

/-- In canonical form above `lo`, an offset below `lo` is unlisted and reads 0. -/
theorem Table.read_below {x : Nat} : ∀ (t : Table) {lo : Nat}, x < lo → Table.wfFrom lo t = true → Table.read t x = 0
  | [], _, _, _ => rfl
  | (a, b) :: t, lo, hx, hw => by
    simp only [Table.wfFrom, Bool.and_eq_true, decide_eq_true_eq] at hw
    have hne : x ≠ a := by omega
    simp only [Table.read, if_neg hne]
    exact Table.read_below t (by omega) hw.2

/-- A write keeps the canonical form (R73). -/
theorem Table.wfFrom_write {x : Nat} {v : Byte} (hx : x < 4096) :
    ∀ (t : Table) {lo : Nat}, lo ≤ x → Table.wfFrom lo t = true → Table.wfFrom lo (Table.write t x v) = true
  | [], lo, hlo, _ => by
    unfold Table.write; split
    · rfl
    · next h => simpa [Table.wfFrom, hlo, hx] using h
  | (a, b) :: t, lo, hlo, hw => by
    simp only [Table.wfFrom, Bool.and_eq_true, decide_eq_true_eq] at hw
    unfold Table.write
    split
    · split
      · simpa [Table.wfFrom] using ⟨⟨⟨hw.1.1.1, hw.1.1.2⟩, hw.1.2⟩, hw.2⟩
      · next hxa hv =>
        simp only [Table.wfFrom, Bool.and_eq_true, decide_eq_true_eq]
        exact ⟨⟨⟨hlo, hx⟩, hv⟩, ⟨⟨by omega, hw.1.1.2⟩, hw.1.2⟩, hw.2⟩
    · split
      · next hxa =>
        split
        · exact Table.wfFrom_mono (by omega) t hw.2
        · next hv =>
          simp only [Table.wfFrom, Bool.and_eq_true, decide_eq_true_eq]
          refine ⟨⟨⟨hlo, hx⟩, hv⟩, ?_⟩
          rw [hxa]; exact hw.2
      · next hxlt hxa =>
        simp only [Table.wfFrom, Bool.and_eq_true, decide_eq_true_eq]
        exact ⟨⟨⟨hw.1.1.1, hw.1.1.2⟩, hw.1.2⟩, Table.wfFrom_write hx t (by omega) hw.2⟩

/-- A write inside the table keeps its canonical form. -/
theorem Table.wf_write {t : Table} {x : Nat} (v : Byte) (hx : x < 4096) (h : t.wf = true) : (Table.write t x v).wf = true :=
  Table.wfFrom_write hx t (Nat.zero_le x) h

/-- A read after a write, at the written offset and elsewhere. -/
theorem Table.read_write_from {x y : Nat} {v : Byte} :
    ∀ (t : Table) {lo : Nat}, Table.wfFrom lo t = true →
      Table.read (Table.write t x v) y = if y = x then v else Table.read t y
  | [], _, _ => by
    unfold Table.write; split <;> rename_i h
    · simp [Table.read, h]
    · simp [Table.read]
  | (a, b) :: t, lo, hw => by
    simp only [Table.wfFrom, Bool.and_eq_true, decide_eq_true_eq] at hw
    unfold Table.write
    split
    · next hxa =>
      split
      · next hv =>
        by_cases hy : y = x
        · subst hy
          have hne : y ≠ a := by omega
          simp only [if_true, Table.read, if_neg hne, hv]
          exact Table.read_below t (by omega) hw.2
        · simp [hy]
      · simp [Table.read]
    · split
      · next hxa =>
        subst hxa
        split
        · next hv =>
          by_cases hy : y = x
          · subst hy
            simp only [if_true, hv]
            exact Table.read_below t (Nat.lt_succ_self y) hw.2
          · simp [Table.read, hy]
        · simp [Table.read]
          by_cases hy : y = x <;> simp [hy]
      · next hxlt hxa =>
        simp only [Table.read]
        by_cases hya : y = a
        · subst hya
          have : y ≠ x := fun h => hxa h.symm
          simp [this]
        · simp only [if_neg hya]
          exact Table.read_write_from t hw.2

/-- A read after a write, at the written offset and elsewhere, in a canonical table. -/
theorem Table.read_write {t : Table} (x y : Nat) (v : Byte) (h : t.wf = true) :
    Table.read (Table.write t x v) y = if y = x then v else Table.read t y := Table.read_write_from t h

/-- Storing a signed 16-bit field keeps the canonical form. -/
theorem Table.wf_writeI16 {t : Table} {x : Nat} (v : Int) (hx : x + 1 < 4096) (h : t.wf = true) :
    (t.writeI16 x v).wf = true :=
  Table.wf_write _ hx (Table.wf_write _ (by omega) h)

/-- Copying a beat's bytes keeps the canonical form (R73). -/
theorem copyBytes_wf {t : Table} (off skip : Nat) (b : Beat) (h : t.wf = true) :
    ∀ n, (copyBytes t off skip b n).wf = true
  | 0 => h
  | n + 1 => by
    unfold copyBytes
    split
    · next hc =>
      simp only [Bool.and_eq_true, decide_eq_true_eq] at hc
      exact Table.wf_write _ hc.2 (copyBytes_wf off skip b h n)
    · exact copyBytes_wf off skip b h n

/-- Clamping the ratio offsets of fewer than 505 nodes keeps the canonical form (R86). -/
theorem clampOffsets_wf {t : Table} (h : t.wf = true) : ∀ n, n ≤ 505 → (clampOffsets t n).wf = true
  | 0, _ => h
  | n + 1, hn => by
    have ih := clampOffsets_wf h n (by omega)
    unfold clampOffsets
    simp only
    split
    · exact Table.wf_writeI16 _ (by omega) ih
    · split
      · exact Table.wf_writeI16 _ (by omega) ih
      · exact ih

/-- One byte read as a number is below 256. -/
theorem Table.readLE_one_lt (t : Table) (x : Nat) : Table.readLE t x 1 < 256 := by
  simp [Table.readLE]; exact (Table.read t x).isLt

/-- A commit keeps both tables canonical (R79, R86). -/
theorem ProfileStore.commit_wf {p : ProfileStore} (ha : p.activeTable.wf = true) (hs : p.stagingTable.wf = true) :
    p.commit.activeTable.wf = true ∧ p.commit.stagingTable.wf = true := by
  unfold ProfileStore.commit
  split
  · exact ⟨ha, hs⟩
  · refine ⟨ha, clampOffsets_wf hs _ ?_⟩
    have := Table.readLE_one_lt p.stagingTable 6
    unfold Table.nodes; omega

/-- A swap keeps both tables canonical (R87). -/
theorem ProfileStore.swap_wf {p : ProfileStore} (ha : p.activeTable.wf = true) (hs : p.stagingTable.wf = true) :
    p.swap.activeTable.wf = true ∧ p.swap.stagingTable.wf = true := ⟨hs, ha⟩

/-- A captured beat keeps the staging table canonical and leaves the active one (R73). -/
theorem ProfileStore.copyBeat_wf {p : ProfileStore} (base : Nat) (x : Nat × Nat × Beat)
    (hs : p.stagingTable.wf = true) :
    (p.copyBeat base x).stagingTable.wf = true ∧ (p.copyBeat base x).activeTable = p.activeTable :=
  ⟨copyBytes_wf _ _ _ hs 32, rfl⟩

/-- The emptied tables are canonical. -/
theorem ProfileStore.reset_wf : ProfileStore.reset.activeTable.wf = true ∧ ProfileStore.reset.stagingTable.wf = true :=
  ⟨rfl, rfl⟩

end Sys2Proof.Machine
end

