-- ==== Sys2Proof/Tests/Slice0.lean ====
section
/-! SUPPORT. Tests: ill-formed operands that `Instr.wf` refuses, worked examples of the manual with the manual's own
numbers, and for every statement with hypotheses a state and operands that meet them (`witness_` and its name). -/

namespace Sys2Proof.Tests

open Sys2Proof Sys2Proof.Machine

set_option maxRecDepth 100000

/-! ### Small states -/

/-- The part in READY, every block at its value after reset. -/
def ready : State := (State.reset.setStl StoreLoader.reset.finish).setOutputs []

/-- A full beat. -/
def fullBeat : Beat := ⟨0, BitVec.allOnes 32⟩

/-- A write burst of full beats. -/
def burst (tag a n : Nat) : UpWrite := ⟨tag, BitVec.ofNat 40 a, .incr, 32, List.replicate n fullBeat⟩

/-- Parameter words, all 0. -/
def zeros : Params := ⟨0, 0, 0, 0, 0, 0⟩

/-- Settings of a small frame: 16 by 16 pixels at address 0. -/
def smallSettings (mode : Mode) : Settings :=
  { Settings.reset with window := some (0, 0xFFF), width := 16, height := 16, stride := 128, mode := mode }

/-- A context with the small frame in a state. -/
def smallContext (x : CtxState) (f : Option Frame) : Context :=
  { Context.reset 48 with state := x, settings := smallSettings .correct, extent := some ⟨0, 4096⟩, height := 16,
                          mode := .correct, frame := f }

/-- An entry of four bands. -/
def smallEntry (id : Nat) : EpochEntry :=
  ⟨id, 0, true, ⟨16, 256, 0, 0, 4⟩, ⟨false, false⟩, ⟨false, false⟩, List.replicate 4 none⟩

/-- A table that holds one entry. -/
def oneEntry : EpochTable := { EpochTable.reset with entries := [smallEntry 0], nextId := 1 }

/-- READY, context 0 in a state with the small frame, one entry held. -/
def framed (x : CtxState) (f : Option Frame) : State :=
  (ready.setMept oneEntry).setCtx .ctx0 (smallContext x f)

/-- A frame just started on entry 0. -/
def freshFrame : Frame := Frame.fresh 0 (some (smallEntry 0))

/-- The frame area of the small frame. -/
def smallArea : FrameArea := ⟨0, 128, 16, 16⟩

/-- A row run of two bursts, not begun. -/
def rowRun (c : Ctx) : Run := ⟨.row c 0 false, [⟨0, 2⟩, ⟨64, 2⟩], false⟩

/-- READY with EMIT0 owning the channel and its row run. -/
def owning : State :=
  ready.setWarb { Arbiter.reset with runs := ⟨none, some (rowRun .ctx0), none, none⟩, owner := some .emit0,
                                     grants := [.emit0] }

/-- The first eight bytes of the telegram of section 2.1. -/
def exampleBytes : List Byte := [0xC5, 0x31, 0x07, 0x0C, 0x4E, 0x20, 0x12, 0x34]

/-- READY, assembling with the given bytes held since time 0. -/
def assembling (held : List Byte) : State := ready.setLlr { LineReceiver.reset with asm := .assemble held }

/-- The state a command answers, or the state itself where it answers none. -/
def after (c : Instr) (s : State) : State :=
  match exec c s with
  | .next t => t
  | _ => s

/-- A record of a kind and target with its words 1 to 6 zero, and its check word (Table 10.1). -/
def bareRecord (kind target check : Nat) : BeatData := BitVec.ofNat 256 (kind + 65536 * target + check * 2 ^ 224)

/-! ### Ill-formed operands -/

theorem test_wf_refuses_a_write_of_no_beat : (Instr.upstreamWrite 0 (burst 0 0 0)).wf = false := by decide
theorem test_wf_refuses_a_write_of_17_beats : (Instr.upstreamWrite 0 (burst 0 0 17)).wf = false := by decide
theorem test_wf_refuses_a_write_of_size_33 :
    (Instr.upstreamWrite 0 { burst 0 0 1 with size := 33 }).wf = false := by decide
theorem test_wf_refuses_a_read_tag_16 : (Instr.upstreamRead 0 ⟨16, 0, .incr, 32, 1⟩).wf = false := by decide
theorem test_wf_refuses_a_read_of_no_beat : (Instr.upstreamRead 0 ⟨0, 0, .incr, 32, 0⟩).wf = false := by decide
theorem test_wf_refuses_a_read_of_17_beats : (Instr.upstreamRead 0 ⟨0, 0, .incr, 32, 17⟩).wf = false := by decide
theorem test_wf_refuses_a_read_of_size_33 : (Instr.upstreamRead 0 ⟨0, 0, .incr, 33, 1⟩).wf = false := by decide
theorem test_wf_refuses_read_data_under_tag_16 : (Instr.memoryReadData 0 16 0 .okay).wf = false := by decide
theorem test_wf_refuses_an_answer_beat_under_tag_16 : (Instr.answerBeatReturned 0 16).wf = false := by decide
theorem test_wf_refuses_a_write_response_under_tag_4 : (Instr.memoryWriteResponse 0 4 .okay).wf = false := by decide
theorem test_wf_refuses_half_the_counter_range : (Instr.frameMark (2 ^ 31)).wf = false := by decide
theorem test_wf_takes_16_full_beats : (Instr.upstreamWrite 0 (burst 0 0 16)).wf = true := by decide

/-! ### Worked examples of the manual -/

/-- R4: the three masks. -/
theorem test_masks :
    (extentOf 0 0x00000FFF).size = 4096 ∧ (extentOf 0 0x00000F0F).size = 4096 ∧
      (extentOf 0 0x00FFFFFF).size = 16777216 := by decide

/-- Section 2.1: check byte 0x43; focus 20000, iris 0x1234, sample time 12 × 20 + 150 µs before the arrival. -/
theorem test_telegram :
    telegramGood (exampleBytes ++ [0x43]) = true ∧
      (ready.setTime 1000).candidate (exampleBytes ++ [0x43]) = ⟨1000, 610, 20000, 0x1234⟩ := by decide

/-- Section 3.6.1: the rising rack. -/
theorem test_rising_rack :
    predict [⟨1000, 20000, 0⟩, ⟨2000, 20400, 0⟩] 1000 8000 = ⟨20000, .beforeTrack⟩ ∧
      predict [⟨1000, 20000, 0⟩, ⟨2000, 20400, 0⟩] 1600 8000 = ⟨20240, .interpolated⟩ ∧
      predict [⟨1000, 20000, 0⟩, ⟨2000, 20400, 0⟩] 2500 8000 = ⟨20600, .predicted⟩ := by decide

/-- Section 3.6.2: rounding, the horizon, and the clamp at 0. -/
theorem test_falling_rack :
    predict [⟨1000, 20400, 0⟩, ⟨2000, 20000, 0⟩] 1601 8000 = ⟨20160, .interpolated⟩ ∧
      predict [⟨10000, 30000, 0⟩, ⟨11000, 29000, 0⟩] 25000 8000 = ⟨21000, .predicted⟩ ∧
      predict [⟨1000, 500, 0⟩, ⟨2000, 100, 0⟩] 4000 8000 = ⟨0, .predicted⟩ := by decide

/-- Section 4.8.1: band times of bands 0 and 3, and bands of rows of both contexts. -/
theorem test_band_times :
    (⟨0, 1000000, true, ⟨2160, 947, 10000, 0, 8⟩, ⟨false, false⟩, ⟨false, false⟩, []⟩ : EpochEntry).bandTime 0 =
        995499 ∧
      (⟨0, 1000000, true, ⟨2160, 947, 10000, -300, 8⟩, ⟨false, false⟩, ⟨false, false⟩, []⟩ : EpochEntry).bandTime 3 =
        998195 ∧
      bandOfRow Settings.reset 8 270 1000 = 3 ∧ bandOfRow { Settings.reset with scale := 2048 } 8 270 540 = 4 := by
  decide

/-- The band record of sections 7.2.2 and 7.10.1. -/
def workedRecord : BandRecord :=
  ⟨0, 0, .interpolated, false, false, some 21000, some 21000, some 21000, 0, 4096, 64960, 4, 0, ⟨0, 0, 0⟩,
    ⟨1229, 205, 41⟩, ⟨0, 0, 0⟩, some 49, some ⟨32768, 17280, 2600, 1500⟩⟩

/-- Section 7.2.2: the clamped ratio 65172 and the source coordinates 192 and 68864. -/
theorem test_depth_clamp :
    let g := deriveGeometry { Context.reset 6 with
      settings := { Settings.reset with width := 2048, height := 1080, scale := 2048 }, height := 1080,
      mode := .correct } 0 workedRecord
    g.ka = 65172 ∧ g.clamped = true ∧ g.ys64 0 = 192 ∧ g.ys64 1079 = 68864 := by decide

/-- Section 7.10.1: channel G of output pixel (100, 50) is 26595. -/
theorem test_worked_pixel :
    let c : Context := { Context.reset 48 with mode := .correct }
    channel (correctPixel c.settings 2160 (deriveGeometry c 0 workedRecord) workedRecord
      (fun row col => packPixel 0
        (if row = 59 then (if col = 117 then 20000 else 20080) else if col = 117 then 20040 else 20120) 0 0) 100 50) 1 =
      26595 := by decide

/-- Section 9.3.1, steps 4 and 9: the sole requester at priority 2, and the tie at priority 1. -/
theorem test_grants :
    ({ Arbiter.reset with
        prio := ⟨3, 2, 1, 1⟩, runs := ⟨none, some (rowRun .ctx0), some (rowRun .ctx1), some (rowRun .ctx1)⟩,
        grants := [.emit1, .pass, .report, .emit0] } : Arbiter).grant.grants = [.emit0, .emit1, .pass, .report] ∧
      ({ Arbiter.reset with
        prio := ⟨3, 2, 1, 1⟩, runs := ⟨none, none, some (rowRun .ctx1), some (rowRun .ctx1)⟩,
        grants := [.emit0, .pass, .emit1, .report] } : Arbiter).grant.owner = some .report := by decide

/-- Section 10.2.1, steps 4 and 6: the acknowledge of FRAME_ABORT opens a gap, which ends in ASSERTED. -/
theorem test_gap :
    let s := ready.setTime 60000 |>.setEvu ⟨0x8404, ~~~4, .asserted⟩
    (after (.eventAck 0 { zeros with p1 := 0x400 }) s).evu = ⟨0x8004, ~~~4, .gap 60000⟩ ∧
      (after (.attnGapEnd 2) (after (.eventAck 0 { zeros with p1 := 0x400 }) s)).evu.line = .asserted := by decide

/-- R166: the check word of a RESET record of scope CONTEXT 1. -/
theorem test_check_word :
    slotReason ⟨bareRecord 14 2 4294836210, true⟩ = none ∧ slotReason ⟨bareRecord 14 2 0, true⟩ = some .check := by
  decide

/-- R130: depths of the table. -/
theorem test_depths :
    depthOf 196608 4096 = 48 ∧ depthOf 65536 512 = 128 ∧ depthOf 4096 4096 = 1 ∧ depthOf 0 4096 = 0 := by decide

/-- R26: a repeated sequence count adds 255 missed telegrams. -/
theorem test_repeat_is_a_lap : missedBefore (some 7) 7 = 255 ∧ missedBefore (some 255) 0 = 0 := by decide

/-- R142, R154: a row of 4096 pixels is 64 bursts of 16 beats. -/
theorem test_row_bursts :
    (rowBursts 0 4096).length = 64 ∧ (rowBursts 0x100 16) = [⟨0x100, 4⟩] ∧
      (rowBursts 0xFC0 16) = [⟨0xFC0, 2⟩, ⟨0x1000, 2⟩] := by decide

/-- R186: a good header of no record sets the window to its base with bits 0 to 11 cleared. -/
theorem test_header_base :
    (after (.imageHeader 5 (BitVec.ofNat 256
      (0x31434A55 + 0x300 * 2 ^ 32 + 0x12345FFF * 2 ^ 64 + 0x89 * 2 ^ 96 + (2 ^ 32 * 2 - (0x31434A55 + 0x300 + 0x12345FFF
        + 0x89)) % 2 ^ 32 * 2 ^ 224))) State.reset).pb.controlBase = 0x8912345000 := by decide

/-- A full slot with an ARBITER record: its words 1 to 3, and its check word (Tables 10.1 and 10.2). -/
def arbiterSlot (prios preempt latency : Nat) : Slot :=
  ⟨BitVec.ofNat 256 (12 + prios * 2 ^ 32 + preempt * 2 ^ 64 + latency * 2 ^ 96 +
    (2 ^ 34 - (12 + prios + preempt + latency)) % 2 ^ 32 * 2 ^ 224), true⟩

/-- EMIT1 owns the channel after a burst, EMIT0 waits above it with a run not begun, and the count stands at 5. -/
def overtaken : Arbiter :=
  { Arbiter.reset with
    prio := ⟨3, 2, 1, 1⟩, runs := ⟨none, some (rowRun .ctx0), some { rowRun .ctx1 with started := true }, none⟩,
    owner := some .emit1, grants := [.emit1], timer := some 5 }

/-- R158 (3): the withdrawal of the one requester above the owner stops the timer, and its next run starts it from 0. -/
theorem test_withdrawal_stops_the_timer :
    (overtaken.withdraw .emit0).timer = none ∧
      (((overtaken.withdraw .emit0).request .emit0 (rowRun .ctx0)).settle).timer = some 0 := by decide

/-- R160, R165: preemption off and on again in one burst discards the count, as the slots are applied one by one. -/
theorem test_arbiter_slots_are_applied_one_by_one :
    (examineSlots [arbiterSlot 0x01010203 0 16, arbiterSlot 0x01010203 1 16] (ready.setWarb overtaken)).settle.warb.timer =
        some 0 ∧
      (examineSlots [arbiterSlot 0x01010203 1 16] (ready.setWarb overtaken)).settle.warb.timer = some 5 := by decide

/-- R160 (2): a count at the new L suspends an owner at a boundary within the ARBITER record, a count below it does not. -/
theorem test_arbiter_record_suspends_at_once :
    let p : Nat → Params := fun l => { zeros with p1 := 0x01010203, p2 := 1, p3 := BitVec.ofNat 32 l }
    let w := (after (.arbiter 0 (p 5)) (ready.setWarb overtaken)).warb
    w.owner = some .emit0 ∧ w.timer = none ∧ w.grants = [.emit0, .emit1] ∧ w.runs = overtaken.runs ∧
      (after (.arbiter 0 (p 6)) (ready.setWarb overtaken)).warb.owner = some .emit1 ∧
      (examineSlots [arbiterSlot 0x01010203 1 5] (ready.setWarb overtaken)).warb.owner = some .emit0 := by decide

/-- R155, R159: with L of 0 an owner that has issued no burst stands at no boundary. -/
theorem test_fresh_owner_is_not_suspended :
    ({ overtaken with latency := 0 } : Arbiter).suspensionDue = true ∧
      ({ overtaken with latency := 0, runs := overtaken.runs.set .emit1 (some (rowRun .ctx1)) } : Arbiter).suspensionDue =
        false := by decide

/-- R20, R188 (4): at 1 000 000 baud a character that ends 9 µs after the entry to READY began before it. -/
theorem test_first_character :
    let s := after (.imageHeader 0 0) State.reset
    (after (.lplCharacter 9 0xC5 false) s).llr.asm = .hunt ∧
      (after (.lplCharacter 10 0xC5 false) s).llr.asm = .assemble [0xC5] := by decide

/-- R165, R183: the slots after a RESET ALL record are not examined. -/
theorem test_no_slot_after_reset_all :
    (examineSlots [⟨bareRecord 14 0 (2 ^ 32 - 14), true⟩, ⟨bareRecord 8 0 (2 ^ 32 - 8), true⟩] ready).crec.taken = 1 ∧
      (examineSlots [⟨bareRecord 10 0 (2 ^ 32 - 10), true⟩, ⟨bareRecord 8 0 (2 ^ 32 - 8), true⟩] ready).crec.taken =
        2 := by decide

/-- R52, R149: with a wait limit of 0 the deferral begins and ends at one moment, and the stall timer restarts there. -/
theorem test_wait_limit_0_restarts_the_stall_timer :
    let s := ((((framed .running (some { freshFrame with stall := some 0 })).setTime 40000).setPmon
      { PositionMonitor.reset with pos := .track }).setPtrk ⟨[⟨0, 20000, 0⟩], some 0⟩).setBpln
        { Planner.reset with cursor := some (0, 0) }
    (((s.setFest ⟨.await, 8000, 0⟩).requestBand .ctx0 0 0).ctx .ctx0).stallTimer = some 40000 ∧
      (((s.setFest ⟨.await, 8000, 0⟩).requestBand .ctx0 0 0).evu.set.getLsbD 8) = true ∧
      (((s.setFest ⟨.predict, 8000, 0⟩).requestBand .ctx0 0 0).ctx .ctx0).stallTimer = some 0 := by decide

/-! ### Every statement's hypotheses are met -/

theorem witness_StepRunsFrontCommandOrIdles :
    (ready.setPending [.frameMark 3]).pending = .frameMark 3 :: [] ∧ State.reset.pending = [] := by decide

theorem witness_CommandsLeaveTheQueueAndPassTime :
    (∃ t, exec (.frameMark 3) ready = .next t) ∧ ready.stl.part ≠ .inReset ∧
      ∃ t, exec (.frameMark 3) (after (.pinResetAssert 0) ready) = .next t := ⟨⟨_, rfl⟩, by decide, ⟨_, rfl⟩⟩

/-- READY with a table of two bytes, a profile window and a write into it in front. -/
def profiling : State :=
  ((ready.setPb { PortBridge.reset with profileBase := some 4096 }).setPsto
    { ProfileStore.reset with stagingTable := [(0, 0x55), (4095, 1)] }).setPending [.upstreamWrite 0 (burst 0 8160 1)]

theorem witness_EveryStepKeepsTheTablesCanonical : profiling.tablesWf = true ∧ ∃ t, step profiling = .next t :=
  ⟨by decide, ⟨_, rfl⟩⟩

/-- READY with 16 samples, 4 entries, 31 responses and a character that completes a telegram in front. -/
def crowded : State :=
  ((((assembling exampleBytes).setPtrk
    ⟨(List.range 16).map fun i => ⟨BitVec.ofNat 32 i, 0, 0⟩, some 0⟩).setMept
      ⟨[smallEntry 0, smallEntry 1, smallEntry 2, smallEntry 3], 4, ShotSetting.reset⟩).setPb
        { PortBridge.reset with responses := List.replicate 31 ⟨.passed, burst 0 0 1, true, none⟩ }).setPending
          [.lplCharacter 10 0x43 false]

theorem witness_EveryStepKeepsTheListsWithinRoom : crowded.withinRoom ∧ ∃ t, step crowded = .next t :=
  ⟨by unfold State.withinRoom; decide, ⟨_, rfl⟩⟩

/-- READY with one unmasked event latched, ATTN asserted, and its acknowledge in front. -/
def attending : State := (ready.setEvu ⟨2, BitVec.allOnes 19, .asserted⟩).setPending [.eventAck 0 { zeros with p1 := 2 }]

theorem witness_EveryStepKeepsAttnBacked : attending.attnBacked ∧ ∃ t, step attending = .next t :=
  ⟨by unfold State.attnBacked; decide, ⟨_, rfl⟩⟩

theorem witness_EveryStepKeepsTheTrackRising : crowded.trackRises = true ∧ ∃ t, step crowded = .next t :=
  ⟨by decide, ⟨_, rfl⟩⟩

theorem witness_OnlyHeaderAndResetsSetWindowAndRate : ∃ t, exec (.frameMark 0) ready = .next t := ⟨_, rfl⟩

theorem witness_EntryToReadyDrivesAttn :
    (after (.imageHeader 0 0) State.reset).stl.part = .ready ∧ State.reset.stl.part ≠ .ready ∧
      (after (.imageHeader 0 0) State.reset).stl.storeFault = true := by decide

/-- Room for one response, and a pass write not yet issued as PASS. -/
def nearlyFull : State :=
  (ready.setPb { PortBridge.reset with responses := List.replicate 31 ⟨.passed, burst 0 0 1, true, none⟩ }).setWarb
    { Arbiter.reset with runs := ⟨some (passRun (burst 0 0 1)), none, none, none⟩ }

theorem witness_PassedWriteJoinsTheResponseQueue :
    (ready.stl.part ≠ .inReset ∧ ready.stl.pendingReset = false ∧ ready.pb.channel = [] ∧
      ready.pb.responses.length < 32 ∧ ready.route (burst 1 64 16) = .pass ∧ ready.warb.runs.pass = none ∧
      ready.nextPass = none) ∧
    nearlyFull.stl.part ≠ .inReset ∧ nearlyFull.stl.pendingReset = false ∧ nearlyFull.pb.channel = [] ∧
      nearlyFull.pb.responses.length < 32 ∧ nearlyFull.route (burst 1 64 1) = .pass ∧
      nearlyFull.warb.runs.pass ≠ none := by decide

/-- A write of two beats into the control window: a good EVENT_ACK record, and a slot of zeros but its tag byte. -/
def controlBurst : UpWrite :=
  { burst 1 0xFFFFFFF000 2 with
    beats := [⟨bareRecord 9 0 (2 ^ 32 - 9), BitVec.allOnes 32⟩, ⟨1, BitVec.allOnes 32⟩] }

theorem witness_PassedWriteJoinsTheResponseQueue_control :
    ready.route controlBurst = .control ∧ nearlyFull.route controlBurst = .control ∧
      (controlBurst.slots ready.pb.controlBase).map slotReason = [none, some .check] ∧ ready.pb.channel = [] ∧
      nearlyFull.pb.responses.length = 31 := by decide

theorem witness_ProfileWriteIsCopiedByStrobes :
    (profiling.stl.part ≠ .inReset ∧ profiling.stl.pendingReset = false ∧ profiling.pb.channel = [] ∧
      profiling.pb.responses.length < 32 ∧ profiling.route (burst 0 8191 2) = .profile 4096 ∧ 4096 % 32 = 0 ∧
      4096 ≤ (burst 0 8191 2).first ∧ profiling.tablesWf = true ∧ profiling.psto.pendingSwap = false ∧
      (burst 0 8191 2).beats[0]? = some fullBeat ∧ fullBeat.strb.getLsbD 31 = true ∧
      4095 = (burst 0 8191 2).first / 32 * 32 + 32 * 0 + 31 - 4096) ∧
    (profiling.route (burst 0 8160 1) = .profile 4096 ∧ (burst 0 8160 1).first % 32 = 0 ∧
      fullBeat.strb = BitVec.allOnes 32 ∧ (burst 0 8160 1).first / 32 * 32 + 32 * 0 - 4096 = 32 * 127) ∧
    (profiling.setPsto { ProfileStore.reset with pendingSwap := true }).route (burst 0 4096 1) = .profile 4096 ∧
      (profiling.setPsto { ProfileStore.reset with pendingSwap := true }).psto.pendingSwap = true := by decide

theorem witness_FrameStartBindsTheOldestUnconsumedEntry :
    (framed .idle none).stl.part = .ready ∧ (framed .idle none).stl.pendingReset = false ∧
      (framed .idle none).pb.channel = [] ∧ (framed .idle none).pb.responses = [] ∧
      (framed .idle none).route (burst 5 0 8) = .offered .ctx0 smallArea ∧
      ((framed .idle none).ctx .ctx0).area = some smallArea ∧ ((framed .idle none).ctx .ctx0).state = .idle ∧
      ((framed .idle none).ctx .ctx0).mode ≠ .transparent ∧ (burst 5 0 8).first = smallArea.base ∧
      (burst 5 0 8).fullStrobes = true ∧ smallArea.covers (burst 5 0 8).first (burst 5 0 8).last = true ∧
      (smallArea.rowsTouched (burst 5 0 8).first (burst 5 0 8).last).length ≤ 2 ∧
      (framed .idle none).mept.unconsumed .ctx0 = some (smallEntry 0) ∧
      ((framed .idle none).ctx .ctx0).settings.width % 4 = 0 ∧ 0 < ((framed .idle none).ctx .ctx0).settings.width := by
  decide

/-- A frame whose row 0 holds its first four pixels. -/
def begunFrame : Frame := { freshFrame with nextX := 4, held := [[1, 2, 3, 4]] }

theorem witness_ReofferedHeadIsTakenOrStaysHeld :
    ((framed .running (some begunFrame)).route (burst 1 32 3) = .offered .ctx0 smallArea ∧
      begunFrame.inSequence smallArea (burst 1 32 3) false = true ∧ begunFrame.low ≤ begunFrame.nextRow ∧
      begunFrame.fits (smallArea.rowsTouched (burst 1 32 3).first (burst 1 32 3).last) 1 = true ∧
      begunFrame.fits (smallArea.rowsTouched (burst 1 32 3).first (burst 1 32 3).last) 0 = false ∧
      ((framed .running (some begunFrame)).ctx .ctx0).depth = 48 ∧
      (((framed .running (some begunFrame)).setCtx .ctx0
        { smallContext .running (some begunFrame) with depth := 0 }).ctx .ctx0).depth = 0) ∧
    (nearlyFull.setPb { nearlyFull.pb with channel := [burst 1 64 1] }).route (burst 1 64 1) = .pass ∧
      (nearlyFull.setPb { nearlyFull.pb with channel := [burst 1 64 1] }).pb.responses.length < 32 ∧
      (framed .finishing (some freshFrame)).route (burst 1 0 1) = .offered .ctx0 smallArea ∧
      (burst 1 0 1).first = smallArea.base ∧ ((framed .finishing (some freshFrame)).ctx .ctx0).state = .finishing ∧
      (framed .aborting (some freshFrame)).route (burst 1 0 1) = .offered .ctx0 smallArea ∧
      ((framed .aborting (some freshFrame)).ctx .ctx0).state = .aborting := by decide

/-- A read of the small frame's first row. -/
def rowRead (tag : Nat) : UpRead := ⟨tag, 0, .incr, 32, 4⟩

theorem witness_TakenReadIsHeldForwardedOrAnswered :
    ready.stl.part ≠ .inReset ∧ ready.stl.pendingReset = false ∧ ready.pb.holds.length < 8 ∧
      (ready.disposition (rowRead 3)).rows = [] ∧ (ready.disposition (rowRead 3)).fate = .forward ∧
      ((framed .running (some freshFrame)).disposition (rowRead 3)).rows = [0] ∧
      answering [⟨3, .answering [0]⟩] 3 = true ∧
      (((framed .idle none).setCtx .ctx0
        { smallContext .idle none with settings := { smallSettings .correct with view := .gainView } }).disposition
          (rowRead 3)).fate = .answer .ctx0 := by decide

theorem witness_TakenReadIsHeldForwardedOrAnswered_given :
    let s := framed .running (some { freshFrame with e := 1, unretired := [] })
    (s.stl.part = .ready ∧ s.firstInWindow .ctx0 (rowRead 3).first ∧ (s.ctx .ctx0).state ≠ .off ∧
      (s.ctx .ctx0).area = some smallArea ∧ smallArea.rowsTouched (rowRead 3).first (rowRead 3).last = [0] ∧
      (s.ctx .ctx0).settings.view = .normal ∧ ({ freshFrame with e := 1, unretired := [] } : Frame).hasRetired 0 ∧
      ¬freshFrame.hasRetired 0) ∧
    (∀ c, ready.firstInWindow c (rowRead 3).first →
      (ready.ctx c).state = .off ∨ (ready.ctx c).area = none ∨
        ∃ f, (ready.ctx c).area = some f ∧ f.rowsTouched (rowRead 3).first (rowRead 3).last = []) ∧
    (∃ x ∈ [(⟨3, .answering [0]⟩ : ReadOut)], x.tag = (rowRead 3).tag ∧ ∃ l, x.body = .answering l) ∧
    0 < smallArea.width ∧ 8 * smallArea.width ≤ smallArea.stride ∧ smallArea.base ≤ (rowRead 3).first := by
  refine ⟨⟨by decide, ?_, by decide, by decide, by decide, by decide, ?_, ?_⟩, fun c _ => .inl ?_,
    ⟨_, List.mem_singleton.mpr rfl, rfl, _, rfl⟩, by decide, by decide, by decide⟩
  · refine ⟨by decide, by decide, fun b h => ?_, fun h => ?_, ⟨0, 4096⟩, rfl, by decide, by decide⟩ <;> cases h
  · unfold Frame.hasRetired; decide
  · unfold Frame.hasRetired; decide
  · cases c <;> rfl

theorem witness_ForwardedReadBeatPassesUpstream :
    ready.stl.part ≠ .inReset ∧
      [⟨1, .answering [0]⟩, ⟨3, .forwarded 1⟩] = [⟨1, .answering [0]⟩] ++ ⟨3, .forwarded 1⟩ :: ([] : List ReadOut) ∧
      ∀ x ∈ [(⟨1, .answering [0]⟩ : ReadOut)], x.tag ≠ 3 := by decide

theorem witness_AnswerBeatReturnsWithOkay :
    [⟨1, .forwarded 2⟩, ⟨3, .answering [7]⟩] = [⟨1, .forwarded 2⟩] ++ ⟨3, .answering (7 :: [])⟩ :: ([] : List ReadOut) ∧
      ∀ x ∈ [(⟨1, .forwarded 2⟩ : ReadOut)], x.tag ≠ 3 := by decide

theorem witness_CharacterBeginsOrExtendsATelegram :
    (9 < (ready.setLineWait 10).lineWait ∧ (ready.setLineWait 10).lineWait ≤ 10) ∧
      ready.stl.part = .ready ∧ (assembling (exampleBytes.take 7)).lineWait ≤ 40 ∧ ready.llr.asm = .hunt ∧
      (assembling (exampleBytes.take 7)).llr.asm = .assemble (exampleBytes.take 7) ∧
      (exampleBytes.take 7).length < 8 ∧ ((assembling (exampleBytes.take 7)).begin 40).gapBefore = false := by decide

theorem witness_BadTelegramIsCounted :
    (assembling exampleBytes).stl.part = .ready ∧ (assembling exampleBytes).lineWait ≤ 10 ∧
      (assembling exampleBytes).llr.asm = .assemble exampleBytes ∧
      exampleBytes.length = 8 ∧ ((assembling exampleBytes).begin 10).gapBefore = false ∧
      ((exampleBytes ++ [0x44]).map fun x : Byte => x.toNat).sum % 256 ≠ 0 := by decide

theorem witness_GoodPositionTelegramIsCounted :
    (assembling exampleBytes).stl.part = .ready ∧ (assembling exampleBytes).lineWait ≤ 10 ∧
      (assembling exampleBytes).llr.asm = .assemble exampleBytes ∧
      exampleBytes.length = 8 ∧ ((assembling exampleBytes).begin 10).gapBefore = false ∧
      ((exampleBytes ++ [0x43]).map fun x : Byte => x.toNat).sum % 256 = 0 ∧ exampleBytes[1]? = some 0x31 ∧
      ∀ p, (assembling exampleBytes).llr.prevSeq = some p → p < 256 := by
  refine ⟨by decide, by decide, by decide, by decide, by decide, by decide, by decide, ?_⟩
  intro p h; cases h

theorem witness_EarlyIsDroppedAndGoodIsInserted :
    (⟨.track, some 1000, some 1000, 4, none, 0, 0, 0, 300, 5000, 4, 4096, 3⟩ : PositionMonitor).isEarly 1299 = true ∧
      (⟨.acquire, some 1000, some 1000, 3, none, 0, 0, 0, 300, 5000, 4, 4096, 3⟩ : PositionMonitor).isEarly 1300 =
        false ∧
      PosState.acquire ≠ .lost ∧ (⟨[⟨900, 20000, 0⟩], some 0⟩ : Track).staleAt 901 = false ∧
      (⟨[⟨900, 20000, 0⟩], some 0⟩ : Track).implausibleAt 24096 4096 = false := by decide

theorem witness_GapAbandonsTheTelegram :
    (assembling [0xC5]).stl.part = .ready ∧ (assembling [0xC5]).llr.asm = .assemble [0xC5] ∧
      (assembling [0xC5]).stl.lineRate = .baud1M ∧
      30 ≤ elapsed (assembling [0xC5]).llr.lastEnd ((assembling [0xC5]).time + BitVec.ofNat 32 30) := by decide

/-- READY in TRACK with the timing window timer running since time 0. -/
def tracking : State :=
  ready.setPmon ⟨.track, some 0, some 0, 4, none, 0, 0, 0, 300, 5000, 4, 4096, 3⟩

theorem witness_TimingWindowExpiryLosesTheTrack :
    tracking.stl.part ≠ .inReset ∧ tracking.pmon.pos ≠ .lost ∧ tracking.pmon.timer = some 0 ∧
      tracking.pmon.upper ≤ elapsed 0 (tracking.time + BitVec.ofNat 32 5000) ∧ tracking.bpln.deferral = none := by
  decide

theorem witness_InterpolationLiesBetweenNeighbours :
    risingTimes [⟨1000, 65535, 0⟩, ⟨2000, 0, 0⟩] = true ∧
      [(⟨1000, 65535, 0⟩ : Sample), ⟨2000, 0, 0⟩].getLast? = some ⟨2000, 0, 0⟩ ∧ later 2000 1000 = true ∧
      later 2000 2000 = false ∧ ∀ x ∈ [(⟨1000, 65535, 0⟩ : Sample), ⟨2000, 0, 0⟩], x.focus ≤ 65535 := by decide

/-- READY with a deferral of the entry's last band, waiting since time 0. -/
def deferring : State :=
  ((ready.setMept oneEntry).setFest ⟨.await, 8000, 4000⟩).setBpln
    { Planner.reset with cursor := some (0, 3), begun := true, deferral := some ⟨0, 3, 9000, 0⟩,
                         requests := ⟨some (0, 3), none⟩ }

theorem witness_WaitedOutBandIsExtrapolated :
    deferring.stl.part ≠ .inReset ∧ deferring.bpln.deferral = some ⟨0, 3, 9000, 0⟩ ∧
      deferring.mept.find 0 = some (smallEntry 0) ∧ 3 < (smallEntry 0).slots.length ∧
      deferring.fest.waitLimit ≤ elapsed 0 (deferring.time + BitVec.ofNat 32 4000) := by decide

theorem witness_BandCompletionMovesAtMostTheSlew :
    ready.psto.hasActive = false ∧
      ((ready.setPsto { ProfileStore.reset with hasActive := true }).setBpln
        { Planner.reset with motion := ⟨some 24000, some 20000, 0⟩ }).psto.hasActive = true ∧
      ((ready.setPsto { ProfileStore.reset with hasActive := true }).setBpln
        { Planner.reset with motion := ⟨some 24000, some 20000, 0⟩ }).bpln.motion.feff = some 20000 ∧
      2048 < absDiff 24000 20000 ∧ absDiff 22048 20000 ≤ 2048 := by decide

/-- With a target of 24000 and the hysteresis of 2, estimates at the edge and beyond it; each loss action. -/
theorem witness_BandCompletionMovesAtMostTheSlew_target :
    let s := (ready.setPsto { ProfileStore.reset with hasActive := true }).setBpln
      { Planner.reset with motion := ⟨some 24000, some 20000, 0⟩ }
    s.bpln.motion.target = some 24000 ∧ s.pmon.pos ≠ .track ∧ absDiff 24002 24000 ≤ s.bpln.settings.hysteresis ∧
      s.bpln.settings.hysteresis < absDiff 24003 24000 ∧ s.bpln.settings.loss = .hold ∧
      lossOf 1 = .rest ∧ lossOf 2 = .neutral := by decide

/-- Four entries, the oldest of them in use by context 0. -/
def fullTable : State :=
  (framed .running (some freshFrame)).setMept
    ⟨[{ smallEntry 0 with inUse := ⟨true, false⟩ }, smallEntry 1, smallEntry 2, smallEntry 3], 4, ShotSetting.reset⟩

/-- R61: the oldest entry not in use leaves, and the others stay in their order. -/
theorem test_eviction_skips_an_entry_in_use :
    (after (.frameMark 0) fullTable).mept.entries.map (fun e => e.id) = [0, 2, 3, 4] := by decide

theorem witness_FrameMarkCreatesAMarkedEntry_evicts :
    fullTable.stl.part = .ready ∧ (fullTable.ctx .ctx0).state ≠ .off ∧ fullTable.bpln.requests = ⟨none, none⟩ ∧
      4 ≤ fullTable.mept.entries.length ∧
      fullTable.mept.entries =
        [{ smallEntry 0 with inUse := ⟨true, false⟩ }] ++ smallEntry 1 :: [smallEntry 2, smallEntry 3] ∧
      (smallEntry 1).inUse = ⟨false, false⟩ ∧ fullTable.mept.entries.filter fullTable.awaits = fullTable.mept.entries ∧
      (∀ e ∈ [({ smallEntry 0 with inUse := ⟨true, false⟩ } : EpochEntry)], e.inUse ≠ ⟨false, false⟩) ∧
      (framed .idle none).mept.entries.length < 4 := by decide

theorem witness_FrameMarkCreatesAMarkedEntry :
    (framed .idle none).stl.part = .ready ∧ ((framed .idle none).ctx .ctx0).state ≠ .off ∧
      (framed .idle none).bpln.requests = ⟨none, none⟩ ∧ 4 ≤ crowded.mept.entries.length := by decide

theorem witness_DepthClampKeepsStageDWithinDepth : 3 ≤ (Context.reset 3).depth ∧ 2159 < (Context.reset 3).height := by
  decide

theorem witness_GrantGoesToTheHighestPriority :
    ({ owning.warb with owner := none, grants := [.emit0] } : Arbiter).owner = none ∧
      ({ owning.warb with owner := none, grants := [.emit0] } : Arbiter).waiting .emit0 = true := by decide

theorem witness_IssuedBurstJoinsItsRequestersList :
    owning.warb.owner = some .emit0 ∧ owning.warb.runs.get .emit0 = some (rowRun .ctx0) ∧
      (rowRun .ctx0).bursts = ⟨0, 2⟩ :: [⟨64, 2⟩] ∧ [(⟨64, 2⟩ : BurstPlan)] ≠ [] ∧
      owning.warb.suspensionDue = false := by decide

theorem witness_IssuedBurstJoinsItsRequestersList_timed :
    overtaken.owner = some .emit1 ∧ overtaken.runs.get .emit1 = some { rowRun .ctx1 with started := true } ∧
      overtaken.suspensionDue = false ∧ overtaken.timer = some 5 ∧ overtaken.preempt = true ∧
      overtaken.waiting .emit0 = true ∧ overtaken.prio.get .emit1 < overtaken.prio.get .emit0 := by decide

/-- The small frame with EMIT0 owning the channel and one burst left of the run of row 15, drained or not. -/
def ending (x : CtxState) (raw : Bool) : State :=
  (framed x (some { begunFrame with e := 15 })).setWarb
    { owning.warb with runs := ⟨none, some ⟨.row .ctx0 15 raw, [⟨1920, 4⟩], true⟩, none, none⟩ }

theorem witness_IssuedBurstJoinsItsRequestersList_last :
    ((ending .finishing false).warb.owner = some .emit0 ∧ (ending .finishing false).warb.suspensionDue = false ∧
      (ending .finishing false).warb.runs.get .emit0 = some ⟨.row .ctx0 15 false, ⟨1920, 4⟩ :: [], true⟩ ∧
      ((ending .finishing false).ctx .ctx0).frame = some { begunFrame with e := 15 } ∧
      ((ending .finishing false).ctx .ctx0).state ≠ .aborting ∧
      ((ending .finishing false).ctx .ctx0).height ≤ 15 + 1) ∧
    ((ending .aborting true).warb.runs.get .emit0 = some ⟨.row .ctx0 15 true, ⟨1920, 4⟩ :: [], true⟩ ∧
      ((ending .aborting true).ctx .ctx0).frame = some { begunFrame with e := 15 }) ∧
    let s := ready.setWarb { Arbiter.reset with runs := ⟨some (passRun (burst 0 64 1)), none, none, none⟩,
                                                owner := some .pass }
    s.warb.runs.get .pass = some ⟨.passWrite (burst 0 64 1), ⟨64, 1⟩ :: [], false⟩ := by decide

theorem witness_BegunBurstCannotBeWithdrawn :
    owning.warb.owner = some .emit0 ∧ owning.warb.runs.get .emit0 = some (rowRun .ctx0) ∧
      (rowRun .ctx0).bursts = ⟨0, 2⟩ :: [⟨64, 2⟩] ∧ owning.warb.suspensionDue = false := by decide

/-- EMIT0 owns the channel after a burst, a pass write waits above it, and the count has reached L. -/
def challenged : Arbiter :=
  { owning.warb with runs := ⟨some (passRun (burst 0 0 1)), some { rowRun .ctx0 with started := true }, none, none⟩,
                     timer := some 16 }

theorem witness_SuspendedOwnerKeepsItsRun :
    challenged.owner = some .emit0 ∧ Requester.emit0 ≠ .pass ∧ challenged.timer = some 16 ∧ challenged.latency ≤ 16 ∧
      challenged.begun = false ∧ challenged.runs.get .emit0 = some { rowRun .ctx0 with started := true } ∧
      challenged.waiting .pass = true ∧ challenged.prio.get .emit0 < challenged.prio.get .pass ∧
      (challenged.runs.set .emit0 (some (rowRun .ctx0))).get .emit0 = some (rowRun .ctx0) ∧
      (rowRun .ctx0).started = false := by decide

theorem witness_PassResponseReturnsUnchanged :
    let s := (ready.setWarb { Arbiter.reset with issued := ⟨[⟨0, true⟩], [], [], []⟩ }).setPb
      { PortBridge.reset with responses := [⟨.passed, burst 4 64 1, true, none⟩] }
    s.warb.issued.pass = ⟨0, true⟩ :: [] ∧ s.pb.responses = ⟨.passed, burst 4 64 1, true, none⟩ :: [] ∧
      s.pb.heldBy = none := by decide

theorem witness_EmitErrorIsCountedAndLatched :
    let s := ready.setWarb { Arbiter.reset with issued := ⟨[], [⟨0, false⟩], [], []⟩ }
    s.warb.issued.get (requesterFor .ctx0) = ⟨0, false⟩ :: [] ∧ s.pb.heldBy = none ∧ Resp.error 2 ≠ .okay := by decide

theorem witness_EmitErrorIsCountedAndLatched_last :
    let f : Frame := { begunFrame with e := 16, unretired := [15] }
    let s := (framed .finishing (some f)).setWarb { Arbiter.reset with issued := ⟨[], [⟨15, true⟩], [], []⟩ }
    s.warb.issued.get (requesterFor .ctx0) = ⟨15, true⟩ :: [] ∧ s.pb.heldBy = none ∧ (s.ctx .ctx0).frame = some f ∧
      (s.ctx .ctx0).state = .finishing ∧ f.e = (s.ctx .ctx0).height ∧ (∀ y ∈ f.unretired, y = 15) ∧
      (({ f with e := 15 } : Frame).e ≠ (s.ctx .ctx0).height) ∧ ∃ y ∈ [14, 15], y ≠ 15 := by
  refine ⟨by decide, by decide, by decide, by decide, by decide, by decide, by decide, 14, by decide, by decide⟩

theorem witness_EmitErrorIsCountedAndLatched_report :
    let q : QueuedReport := ⟨ready.statusReport, .written 4096⟩
    let s := (ready.setWarb { Arbiter.reset with issued := ⟨[], [], [], [⟨0, true⟩]⟩ }).setRpw
      { ReportWriter.reset with slots := 1, queue := [q, ⟨ready.statusReport, .waiting⟩] }
    s.warb.issued.report = ⟨0, true⟩ :: [] ∧ s.pb.heldBy = none ∧
      s.rpw.queue = [] ++ q :: [⟨ready.statusReport, .waiting⟩] ∧ q.stage = .written 4096 := by
  decide

theorem witness_StallTimeoutAbortsTheFrame :
    let s := framed .running (some { freshFrame with stall := some 0 })
    s.stl.part ≠ .inReset ∧ (s.ctx .ctx0).state = .running ∧
      (s.ctx .ctx0).frame = some { freshFrame with stall := some 0 } ∧
      (s.ctx .ctx0).settings.stall ≤ elapsed 0 (s.time + BitVec.ofNat 32 50000) ∧ s.pb.heldBy = none := by decide

theorem witness_ShotReplacesTheShotSetting : ready.takesRecords = true := by decide

theorem witness_GeometryTakesEffectAtOnceOrNext :
    (ready.takesRecords = true ∧ (ready.ctx .ctx0).state = .off) ∧ (framed .idle none).takesRecords = true ∧
      ((framed .idle none).ctx .ctx0).state = .idle ∧ (framed .running (some freshFrame)).takesRecords = true ∧
      ((framed .running (some freshFrame)).ctx .ctx0).state = .running := by decide

/-- What `tookEffect` asks of the settings that a geometry record leaves in IDLE: a window with a mask of one-bits up to 12,
an extent that clamps the height, and a depth of 1 that falls back to TRANSPARENT. -/
theorem witness_GeometryTakesEffectAtOnceOrNext_effect :
    let p : Params := { zeros with p2 := 0, p3 := 0xFFF, p4 := 0x10002000, p5 := 0x1000 }
    let x := (after (.contextGeometry 0 .ctx1 p) ((framed .idle none).setCtx .ctx1 (smallContext .idle none))).ctx .ctx1
    x.settings.window = some (0, 0xFFF) ∧ (∀ i, i < 12 → (0xFFF : Word).getLsbD i = true) ∧
      (0xFFF : Word).getLsbD 12 = false ∧ x.extent = some ⟨0, 4096⟩ ∧ x.settings.height * x.settings.stride > 4096 ∧
      x.height = 0 ∧ x.depth = 8 ∧ fallbackTable .correct 1 = .transparent ∧ fallbackTable .correct 3 = .shadeOnly := by
  decide

theorem witness_OpticsSetTheViewAndFollowTheMode :
    (ready.takesRecords = true ∧ (ready.ctx .ctx1).state = .off) ∧
      (framed .aborting (some freshFrame)).takesRecords = true ∧
      ((framed .aborting (some freshFrame)).ctx .ctx0).state = .aborting := by decide

theorem witness_OpticsSetTheViewAndFollowTheMode_effect :
    ((framed .idle none).setCtx .ctx1 (Context.reset 16)).mept.entries = [smallEntry 0] ∧
      ((after (.contextOptics 0 .ctx1 { zeros with p1 := 3 })
        ((framed .idle none).setCtx .ctx1 (Context.reset 16))).ctx .ctx1).settings.mode = .correct ∧
      (after (.contextOptics 0 .ctx1 { zeros with p1 := 3 })
        ((framed .idle none).setCtx .ctx1 (Context.reset 16))).mept.entries ≠ [] := by decide

theorem witness_LineMemorySplitsNowOrLater :
    (ready.takesRecords = true ∧ ready.bothResting = true) ∧ (framed .running (some freshFrame)).takesRecords = true ∧
      (framed .running (some freshFrame)).bothResting = false := by decide

theorem witness_TrackingReplacesMonitorAndEstimatorSettings :
    tracking.takesRecords = true ∧ tracking.bpln.deferral = none ∧ tracking.pmon.timer = some 0 ∧
      elapsed 0 (tracking.time + BitVec.ofNat 32 100) ≤ max 100 (zeros.p2.toNat / 65536) := by decide

theorem witness_MotionReplacesMotionAndLineSettings : tracking.takesRecords = true := by decide

theorem witness_ProfileWindowMovesAndClearsCoverage : profiling.takesRecords = true := by decide

theorem witness_CommitAcceptsOrRejectsWithAReason :
    ready.takesRecords = true ∧ ready.psto.commitReason = some .tag := by decide

/-- The smallest profile that passes every check: two focus nodes and one iris node in four granules. -/
def smallProfile : ProfileStore :=
  { ProfileStore.reset with
    coverage := BitVec.allOnes 128
    stagingTable := [(0, 0x55), (1, 0x4A), (2, 0x50), (3, 0x31), (4, 4), (6, 2), (7, 1), (20, 1), (22, 1), (24, 0xA5),
      (25, 0xB5), (26, 0xAC), (27, 0x4E), (43, 0x7F), (48, 1)] }

theorem witness_CommitAcceptsOrRejectsWithAReason_checks :
    (∀ r, smallProfile.meets r) ∧ ProfileStore.reset.failsFirst .tag ∧
      (smallProfile.commit.stagingTable ≠ smallProfile.stagingTable ↔
        ∃ i, i < smallProfile.stagingTable.nodes ∧
          (smallProfile.stagingTable.kofs i < -4096 ∨ 4096 < smallProfile.stagingTable.kofs i)) := by
  refine ⟨fun r => ?_, ⟨fun q h => ?_, ?_⟩, ?_⟩
  · cases r
    case order =>
      have hn : (smallProfile.stagingTable.read 6).toNat = 2 := by decide
      have hm : (smallProfile.stagingTable.read 7).toNat = 1 := by decide
      refine ⟨fun i h => ?_, fun j h => ?_⟩
      · rw [hn] at h
        rw [show i = 0 by omega]
        decide
      · rw [hm] at h
        omega
    all_goals unfold ProfileStore.meets; decide
  · cases q <;> first | exact absurd h (by decide) | (unfold ProfileStore.meets; decide)
  · unfold ProfileStore.meets; decide
  · decide

theorem witness_AcceptedOffsetsLieInRange :
    smallProfile.stagingTable.wf = true ∧ smallProfile.commitReason = none := by decide

theorem witness_AckRemovesTheNamedEvents : attending.takesRecords = true ∧ attending.evu.line = .asserted := by decide

theorem witness_MaskReplacesTheEventMask :
    attending.takesRecords = true ∧ attending.evu.line = .asserted ∧ ready.evu.line = .released ∧
      (ready.setEvu ⟨2, BitVec.allOnes 19, .gap 0⟩).takesRecords = true := by decide

theorem witness_GapEndsAfterTwoMicroseconds :
    (ready.setEvu ⟨2, BitVec.allOnes 19, .gap 0⟩).stl.part = .ready ∧ 2 ≤ elapsed 0 (0 + BitVec.ofNat 32 2) ∧
      elapsed 0 (0 + BitVec.ofNat 32 1) < 2 := by decide

theorem witness_RingRecordSetsTheRing : ready.takesRecords = true ∧ zeros.p3.toNat = 0 := by decide

theorem witness_ArbiterRecordReplacesTheSettings :
    owning.takesRecords = true ∧ owning.warb.owner = some .emit0 ∧
      ((ready.setWarb challenged).takesRecords = true ∧ challenged.waiting .pass = true ∧
        challenged.owner = some .emit0 ∧ challenged.begun = false ∧
        challenged.runs.get .emit0 = some { rowRun .ctx0 with started := true } ∧
        Params.priorities { zeros with p1 := 0x01010203 } = ⟨3, 2, 1, 1⟩ ∧
        Params.latency { zeros with p3 := 16 } ≤ challenged.timer.getD 0 ∧
        challenged.timer.getD 0 < Params.latency { zeros with p3 := 17 }) := by decide

theorem witness_StatusRequestGeneratesOrDrops :
    (ready.takesRecords = true ∧ ready.rpw.slots = 0) ∧
      (ready.setRpw { ReportWriter.reset with slots := 1 }).rpw.slots ≠ 0 ∧
      (ready.setRpw { ReportWriter.reset with slots := 1 }).rpw.queue.length < 2 ∧
      2 ≤ (List.replicate 2 (⟨ready.statusReport, .waiting⟩ : QueuedReport)).length := by decide

theorem witness_ResetAllBecomesPendingAndAborts :
    (framed .running (some freshFrame)).takesRecords = true ∧
      ((framed .running (some freshFrame)).ctx .ctx0).state = .running ∧
      ∀ c, (((framed .running (some freshFrame)).setCtx .ctx1 (smallContext .finishing (some freshFrame))).ctx c).state =
          .running ∨
        (((framed .running (some freshFrame)).setCtx .ctx1 (smallContext .finishing (some freshFrame))).ctx c).state =
          .finishing := by
  refine ⟨by decide, by decide, fun c => ?_⟩
  cases c
  · exact .inl (by decide)
  · exact .inr (by decide)

theorem witness_ResetContextAbortsItsFrame :
    ((framed .finishing (some freshFrame)).takesRecords = true ∧
      ((framed .finishing (some freshFrame)).ctx .ctx0).state = .finishing) ∧
    (framed .idle none).takesRecords = true ∧ ((framed .idle none).ctx .ctx0).state = .idle := by decide

theorem witness_ResetTrackingRestartsAcquisition :
    tracking.takesRecords = true ∧ tracking.bpln.deferral = none ∧ deferring.takesRecords = true := by decide

theorem witness_ResetProfilesEmptiesTheStore : profiling.takesRecords = true := by decide

theorem witness_RejectedSlotIsCountedUnderItsFirstReason :
    ready.takesRecords = true ∧ slotReason ⟨0, false⟩ = some .malformed ∧
      slotReason ⟨bareRecord 1 0 0, true⟩ = some .check ∧ slotReason ⟨bareRecord 15 0 (2 ^ 32 - 15), true⟩ = some .kind ∧
      slotReason ⟨bareRecord 2 2 (2 ^ 32 - 131074), true⟩ = some .target := by decide

/-- READY with a RESET ALL record pending and nothing left to close. -/
def closing : State := ready.setStl { StoreLoader.reset.finish with pendingReset := true }

theorem witness_ClosedResetAllReloads :
    closing.stl.pendingReset = true ∧ closing.bothResting = true ∧ closing.pb.holds = [] ∧ closing.pb.responses = [] ∧
      closing.pb.reads = [] ∧ closing.warb.owner = none ∧ closing.warb.quiet = true ∧ closing.rpw.queue = [] ∧
      ready.stl.pendingReset = false := by decide

theorem witness_ReleaseBeginsTheImageRead : (after (.pinResetAssert 0) ready).stl.part = .inReset := by decide

theorem witness_HeaderSetsWindowAndRateOrMarksAFault :
    State.reset.stl.part = .loading ∧ State.reset.stl.image = some .header ∧
      headerGood (BitVec.ofNat 256 (0x31434A55 + 0x307 * 2 ^ 32 + (2 ^ 32 - 0x31434A55 - 0x307) * 2 ^ 224)) = true ∧
      headerGood (BitVec.ofNat 256 (0x31434A55 + 0x308 * 2 ^ 32 + (2 ^ 32 - 0x31434A55 - 0x308) * 2 ^ 224)) = false ∧
      headerGood (BitVec.ofNat 256 (0x31434A55 + 0x400 * 2 ^ 32 + (2 ^ 32 - 0x31434A55 - 0x400) * 2 ^ 224)) = false := by
  decide

theorem witness_ImageRecordIsCountedAndTheImageEnds :
    (State.reset.setStl { StoreLoader.reset with image := some (.records 2 1) }).stl.part = .loading ∧
      slotReason ⟨bareRecord 8 0 (2 ^ 32 - 8), true⟩ = none ∧ slotReason ⟨bareRecord 8 0 0, true⟩ = some .check ∧
      2 ≤ 1 + 1 ∧ 0 + 1 < 2 ∧ slotReason ⟨bareRecord 14 0 (2 ^ 32 - 14), true⟩ = none ∧
      kindOf (bareRecord 14 0 (2 ^ 32 - 14)) = 14 ∧ targetOf (bareRecord 14 0 (2 ^ 32 - 14)) = 0 := by decide

theorem witness_ImageRecordIsCountedAndTheImageEnds_table :
    (∃ f, recordTable 0 zeros 14 4 = some (.resetProfiles 0, f)) ∧ ready.takesRecords = true ∧
      checkSumOk (bareRecord 2 2 (2 ^ 32 - 131074)) = true ∧ recordTable 0 zeros 2 2 = none :=
  ⟨⟨_, rfl⟩, by decide, by decide, rfl⟩

end Sys2Proof.Tests
end

section
/-! PROOFS. The lens position line (chapter 2): what the ninth character of a telegram does. A bad telegram is counted
(R24); a good position telegram is counted with the telegrams missed before it (R26), and the judging of its candidate
keeps both the receiver and the arrival it notes first (R29). -/

namespace Sys2Proof.Machine

/-! ### The end of a command -/

theorem State.changesOnly_settle (s : State) : s.changesOnly s.settle settleBlocks :=
  changes_settle (by decide) (by decide) (by decide) (s.changesOnly_refl _)

@[simp] theorem State.settle_llr (s : State) : s.settle.llr = s.llr := s.changesOnly_settle .llr (by decide)
@[simp] theorem State.settle_pmon (s : State) : s.settle.pmon = s.pmon := s.changesOnly_settle .pmon (by decide)
@[simp] theorem State.settle_evu (s : State) : s.settle.evu = s.evu := s.changesOnly_settle .evu (by decide)

/-! ### What judging keeps: the receiver, and the arrival noted before the tests -/

@[simp] theorem State.offerInsertion_llr (s : State) : s.offerInsertion.llr = s.llr :=
  changes_offerInsertion (s.changesOnly_refl _) .llr (by decide)

@[simp] theorem State.offerInsertion_pmon (s : State) : s.offerInsertion.pmon = s.pmon :=
  changes_offerInsertion (s.changesOnly_refl _) .pmon (by decide)

@[simp] theorem State.emptyRun_llr (s : State) : s.emptyRun.llr = s.llr := rfl
@[simp] theorem State.emptyRun_prevArrival (s : State) : s.emptyRun.pmon.prevArrival = s.pmon.prevArrival := rfl

@[simp] theorem State.advanceTimely_llr (s : State) (n : Nat) : (s.advanceTimely n).llr = s.llr := rfl
@[simp] theorem State.advanceTimely_prevArrival (s : State) (n : Nat) :
    (s.advanceTimely n).pmon.prevArrival = s.pmon.prevArrival := rfl

@[simp] theorem State.startAcquisition_llr (s : State) (x : Sample) : (s.startAcquisition x).llr = s.llr := by
  simp [State.startAcquisition]

@[simp] theorem State.startAcquisition_prevArrival (s : State) (x : Sample) :
    (s.startAcquisition x).pmon.prevArrival = s.pmon.prevArrival := by simp [State.startAcquisition]

@[simp] theorem State.rehome_llr (s : State) (x : Sample) : (s.rehome x).llr = s.llr := by
  unfold State.rehome; dsimp only; split <;> simp

@[simp] theorem State.rehome_prevArrival (s : State) (x : Sample) :
    (s.rehome x).pmon.prevArrival = s.pmon.prevArrival := by
  unfold State.rehome; dsimp only; split <;> simp

@[simp] theorem State.judgeImplausible_llr (s : State) (x : Sample) : (s.judgeImplausible x).llr = s.llr := by
  unfold State.judgeImplausible; dsimp only; split <;> simp

@[simp] theorem State.judgeImplausible_prevArrival (s : State) (x : Sample) :
    (s.judgeImplausible x).pmon.prevArrival = s.pmon.prevArrival := by
  unfold State.judgeImplausible; dsimp only; split <;> simp

@[simp] theorem State.acceptSample_llr (s : State) (x : Sample) : (s.acceptSample x).llr = s.llr := by
  unfold State.acceptSample; dsimp only; split <;> simp

@[simp] theorem State.acceptSample_prevArrival (s : State) (x : Sample) :
    (s.acceptSample x).pmon.prevArrival = s.pmon.prevArrival := by
  unfold State.acceptSample; dsimp only; split <;> simp

@[simp] theorem State.judgeHeld_llr (s : State) (x : Sample) : (s.judgeHeld x).llr = s.llr := by
  unfold State.judgeHeld; split
  · rfl
  · split <;> simp

@[simp] theorem State.judgeHeld_prevArrival (s : State) (x : Sample) :
    (s.judgeHeld x).pmon.prevArrival = s.pmon.prevArrival := by
  unfold State.judgeHeld; split
  · rfl
  · split <;> simp

/-- The tests of a candidate never reach the line receiver (R29 to R34). -/
@[simp] theorem State.judge_llr (s : State) (k : Candidate) : (s.judge k).llr = s.llr := by
  unfold State.judge; dsimp only; split
  · rfl
  · split <;> simp

/-- Dropped or inserted, a candidate's arrival becomes the previous arrival time (R29). -/
@[simp] theorem State.judge_prevArrival (s : State) (k : Candidate) :
    (s.judge k).pmon.prevArrival = some k.arrival := by
  unfold State.judge; dsimp only; split
  · rfl
  · split <;> simp [PositionMonitor.note]

/-! ### The ninth character (R23) -/

theorem exec_lplCharacter (dt : Nat) (b : Byte) (fe : Bool) (s : State) :
    exec (.lplCharacter dt b fe) s = execLplCharacter dt b fe s := rfl

/-- A character whose start bit came after the entry to READY is taken (R20). -/
theorem State.hears_begin {s : State} {dt : Nat} (hready : s.stl.part = .ready) (hwait : s.lineWait ≤ dt) :
    (s.begin dt).hears = true := by
  simp [State.hears, State.isReady, State.begin_lineWait, hready, Nat.sub_eq_zero_of_le hwait]

/-- A ninth byte without a gap before it completes the telegram, and the assembler hunts again (R21, R23). -/
theorem State.character_ninth {s : State} {held : List Byte} (b : Byte) (hasm : s.llr.asm = .assemble held)
    (hlen : held.length = 8) (hgap : s.gapBefore = false) :
    s.character b false = (s.setLlr s.llr.hunt).telegram (held ++ [b]) := by
  simp [State.character, State.assembleCharacter, hasm, hlen, hgap]

/-- LPL_CHARACTER on the ninth byte: the telegram takes its course, then the command ends (R20 to R23). -/
theorem exec_ninthCharacter {s : State} {dt : Nat} {held : List Byte} (b : Byte) (hready : s.stl.part = .ready)
    (hwait : s.lineWait ≤ dt) (hasm : s.llr.asm = .assemble held) (hlen : held.length = 8)
    (hgap : (s.begin dt).gapBefore = false) :
    exec (.lplCharacter dt b false) s =
      .next (((s.begin dt).setLlr s.llr.hunt).telegram (held ++ [b])).settle := by
  have hchar := State.character_ninth b ((congrArg LineReceiver.asm (s.begin_llr dt)).trans hasm) hlen hgap
  rw [exec_lplCharacter, execLplCharacter]
  simp [State.hears_begin hready hwait, hchar]

/-! ### A bad telegram (R24) -/

theorem State.telegram_of_bad (s : State) {bs : List Byte} (hsum : (bs.map fun x => x.toNat).sum % 256 ≠ 0) :
    s.telegram bs = s.badTelegram := by
  simp [State.telegram, telegramGood, hsum]

theorem State.badTelegram_llr (s : State) :
    s.badTelegram.llr = { s.llr with
      bad := s.llr.bad + 1
      consecBad := if s.llr.badLimit ≤ s.llr.consecBad + 1 then 0 else s.llr.consecBad + 1 } := rfl

theorem State.badTelegram_evu (s : State) :
    s.badTelegram.evu =
      if s.llr.badLimit ≤ s.llr.consecBad + 1 then s.evu.latch s.isReady .lineFault else s.evu := by
  unfold State.badTelegram
  simp only [State.latchIf_evu, decide_eq_true_eq]
  rfl

theorem changes_badTelegram {s t : State} {bs : List Block} (hl : Block.llr ∈ bs) (he : Block.evu ∈ bs)
    (h : s.changesOnly t bs) : s.changesOnly t.badTelegram bs :=
  changes_latchIf _ _ he (changes_setLlr _ hl h)

/-- Settles O19: the ninth character completes a telegram that fails its sum (R24). -/
theorem badTelegramIsCounted : Obligations.BadTelegramIsCounted := by
  intro dt b held s hready hwait hasm hlen hgap hsum
  have hrun := exec_ninthCharacter b hready hwait hasm hlen hgap
  rw [State.telegram_of_bad _ hsum] at hrun
  have hevu := State.badTelegram_evu ((s.begin dt).setLlr s.llr.hunt)
  rw [State.setLlr_evu, State.begin_evu] at hevu
  refine ⟨_, hrun, ?_, fun hlimit => ?_, fun hbelow => ?_, ?_⟩
  · rw [State.settle_llr, State.badTelegram_llr]; rfl
  · rw [State.settle_evu, hevu.trans (if_pos hlimit), EventUnit.latch_set]; rfl
  · rw [State.settle_evu, hevu.trans (if_neg (Nat.not_le.mpr hbelow))]
  · exact changes_settle (by decide) (by decide) (by decide)
      (changes_badTelegram (by decide) (by decide) (changes_setLlr _ (by decide) (State.changesOnly_refl _ _)))

/-! ### A good position telegram (R26, R27, R29) -/

/-- The receiver's offset of 511 keeps its natural subtraction from stopping at 0: it counts seq − previous − 1 modulo
256 (R26). -/
theorem missedBefore_some {p seq : Nat} (hp : p < 256) :
    (missedBefore (some p) seq : Int) = ((seq : Int) - p - 1) % 256 := by
  show (((seq + 511 - p) % 256 : Nat) : Int) = _
  omega

theorem telegramByte_append {held : List Byte} {i : Nat} {x : Byte} (bs : List Byte) (h : held[i]? = some x) :
    telegramByte (held ++ bs) i = x.toNat := by
  have hi : i < held.length := (List.getElem?_eq_some_iff.mp h).1
  simp [telegramByte, List.getElem?_append_left hi, h]

theorem State.telegram_of_goodPosition (s : State) {bs : List Byte}
    (hsum : (bs.map fun x => x.toNat).sum % 256 = 0) (htype : telegramByte bs 1 = 0x31) :
    s.telegram bs = (s.setLlr (s.llr.goodPosition (telegramByte bs 2))).judge (s.candidate bs) := by
  simp [State.telegram, telegramGood, hsum, htype]

/-- Settles O20: the ninth character completes a good telegram of type 0x31; the receiver counts it (R26), and the
judging of its candidate keeps the receiver and notes the arrival (R29). -/
theorem goodPositionTelegramIsCounted : Obligations.GoodPositionTelegramIsCounted := by
  intro dt b held s hready hwait hasm hlen hgap hsum htype hprev
  obtain ⟨seq, hseq⟩ : ∃ seq, held[2]? = some seq := ⟨held[2], List.getElem?_eq_getElem (by omega)⟩
  have hrun := exec_ninthCharacter b hready hwait hasm hlen hgap
  have hcourse := State.telegram_of_goodPosition ((s.begin dt).setLlr s.llr.hunt) hsum (telegramByte_append [b] htype)
  rw [telegramByte_append [b] hseq] at hcourse
  refine ⟨_, seq, hrun, hseq, ?_, ?_, ?_⟩
  · rw [State.settle_llr, hcourse, State.judge_llr]
    cases hp : s.llr.prevSeq with
    | none => simp [LineReceiver.goodPosition, LineReceiver.hunt, hp, missedBefore]
    | some p =>
      simp [LineReceiver.goodPosition, LineReceiver.hunt, hp, ← missedBefore_some (hprev p hp)]
  · rw [State.settle_pmon, hcourse, State.judge_prevArrival, ← State.begin_time_of_ready dt hready]
    rfl
  · exact changes_settle (by decide) (by decide) (by decide) (State.changesOnly_mono
      (changes_telegram _ (changes_setLlr _ (by decide) (State.changesOnly_refl _ _))) (by decide))

end Sys2Proof.Machine
end

section
/-! PROOFS. The lens profiles (chapter 5): a record that the control record unit takes, and the RESET record of scope
PROFILES, which empties the profile store (R91). -/

namespace Sys2Proof.Machine

/-! ### A record taken (R165) -/

/-- Where records are taken, the row's function runs on the state in which the record's time has passed. -/
theorem State.recordRow_of_takesRecords {s : State} (dt : Nat) (f : State → State) (htakes : s.takesRecords = true) :
    s.recordRow dt f = f (s.begin dt) := by
  simp [State.recordRow, htakes]

/-- Counting the record leaves the profile store as its effect left it. -/
@[simp] theorem State.takeWith_psto (s : State) (effect : State → State) :
    (s.takeWith effect).psto = (effect s).psto := State.setCrec_psto _ _

/-- The record is counted on the counts that its effect leaves, and ends the run of rejected slots (R165, R167). -/
@[simp] theorem State.takeWith_crec (s : State) (effect : State → State) :
    (s.takeWith effect).crec = (effect s).crec.take := State.setCrec_crec _ _

theorem changes_takeWith {s t : State} {bs : List Block} {effect : State → State} (hc : Block.crec ∈ bs)
    (h : s.changesOnly (effect t) bs) : s.changesOnly (t.takeWith effect) bs :=
  changes_setCrec _ hc h

/-! ### The emptied profile store (R91) -/

theorem exec_resetProfiles (dt : Nat) (s : State) : exec (.resetProfiles dt) s = execResetProfiles dt s := rfl

@[simp] theorem State.recordResetProfiles_psto (s : State) : s.recordResetProfiles.psto = ProfileStore.reset := rfl
@[simp] theorem State.recordResetProfiles_crec (s : State) : s.recordResetProfiles.crec = s.crec := rfl

theorem changes_recordResetProfiles {s t : State} {bs : List Block} (hp : Block.psto ∈ bs) (h : s.changesOnly t bs) :
    s.changesOnly t.recordResetProfiles bs :=
  changes_setPsto _ hp h

/-- Both tables of the emptied store read 0 at every offset (R91). -/
theorem ProfileStore.reset_reads_zero (x : Nat) :
    ProfileStore.reset.activeTable.read x = 0 ∧ ProfileStore.reset.stagingTable.read x = 0 := ⟨rfl, rfl⟩

/-- RESET_PROFILES where records are taken: the record's time passes, and the record is taken with its effect. -/
theorem exec_resetProfiles_of_takesRecords {s : State} (dt : Nat) (htakes : s.takesRecords = true) :
    exec (.resetProfiles dt) s = .next ((s.begin dt).takeWith State.recordResetProfiles) := by
  rw [exec_resetProfiles, execResetProfiles, State.recordRow_of_takesRecords dt _ htakes]

/-- Settles O54: the store after the record is the store at reset, the record is counted, and no other block is
written (R91). -/
theorem resetProfilesEmptiesTheStore : Obligations.ResetProfilesEmptiesTheStore := by
  intro dt s htakes
  have hstore : ((s.begin dt).takeWith State.recordResetProfiles).psto = ProfileStore.reset := by simp
  refine ⟨_, exec_resetProfiles_of_takesRecords dt htakes, ?_⟩
  rw [hstore]
  refine ⟨rfl, fun x => (ProfileStore.reset_reads_zero x).1, fun x => (ProfileStore.reset_reads_zero x).2, rfl, rfl, rfl,
    ?_, ?_⟩
  · rw [State.takeWith_crec, State.recordResetProfiles_crec, State.begin_crec]; rfl
  · exact changes_takeWith (by decide) (changes_recordResetProfiles (by decide) (State.changesOnly_refl _ _))

end Sys2Proof.Machine
end

section
/-! PROOFS. The completion of a band (R101 to R104): what the slew, the target and the strength goal of a band are, and
what its record takes from the motion state it leaves. -/

namespace Sys2Proof.Machine

/-! ### The slew (R103) -/

theorem slewTo_of_le {cur goal step : Nat} (h : absDiff goal cur ≤ step) : slewTo cur goal step = goal := if_pos h

theorem absDiff_of_le {a b : Nat} (h : b ≤ a) : absDiff a b = a - b := if_neg (Nat.not_lt.mpr h)

theorem absDiff_of_ge {a b : Nat} (h : a ≤ b) : absDiff a b = b - a := by
  unfold absDiff; split <;> omega

/-- Beyond the step, a slewed value moves by the step and comes nearer to the goal by as much: it never overshoots. -/
theorem absDiff_slewTo_of_lt {cur goal step : Nat} (h : step < absDiff goal cur) :
    absDiff (slewTo cur goal step) cur = step ∧
      absDiff goal (slewTo cur goal step) + step = absDiff goal cur := by
  rw [slewTo, if_neg (Nat.not_le.mpr h)]
  by_cases hup : cur < goal
  · rw [absDiff_of_le hup.le] at h ⊢
    rw [if_pos hup, absDiff_of_le (Nat.le_add_right cur step), absDiff_of_le (by omega)]
    omega
  · rw [absDiff_of_ge (Nat.not_lt.mp hup)] at h ⊢
    rw [if_neg hup, absDiff_of_ge (Nat.sub_le cur step), absDiff_of_ge (by omega)]
    omega

/-! ### The target, the strength goal and the kind (R101, R102) -/

theorem hysteresisTarget_of_lt {target est hy : Nat} (h : hy < absDiff est target) :
    hysteresisTarget target est hy = est := if_pos h

theorem hysteresisTarget_of_le {target est hy : Nat} (h : absDiff est target ≤ hy) :
    hysteresisTarget target est hy = target := if_neg (Nat.not_lt.mpr h)

@[simp] theorem MotionSettings.target_some (m : MotionSettings) (target rest : Nat) (e : Estimate) :
    m.target target rest (some e) = hysteresisTarget target e.focus m.hysteresis := rfl

theorem MotionSettings.target_none_of_stays {m : MotionSettings} (target rest : Nat)
    (h : m.loss = .hold ∨ m.loss = .neutral) : m.target target rest none = target := by
  rcases h with h | h <;> simp [MotionSettings.target, h]

theorem MotionSettings.target_none_of_rest {m : MotionSettings} (target rest : Nat) (h : m.loss = .rest) :
    m.target target rest none = rest := by
  simp [MotionSettings.target, h]

theorem MotionSettings.goal_eq (m : MotionSettings) (est : Option Estimate) :
    m.goal est = if est = none ∧ m.loss = .neutral then 0 else m.strengthGoal := by
  cases est with
  | some e => simp [MotionSettings.goal]
  | none => cases h : m.loss <;> simp [MotionSettings.goal, h]

/-! ### A completed band -/

theorem State.planBand_of_noProfile {s : State} (b : Nat) (tb : Time) (est : Option Estimate) (d w : Bool)
    (h : s.psto.hasActive = false) : s.planBand b tb est d w = s.planNoProfile b tb est d w := by
  simp [State.planBand, h]

theorem State.planBand_of_profile {s : State} (b : Nat) (tb : Time) (est : Option Estimate) (d w : Bool)
    (h : s.psto.hasActive = true) : s.planBand b tb est d w = s.planWithProfile b tb est d w := if_pos h

/-- Outside TRACK a band is completed at once and without an estimate (R96, R102). -/
theorem State.askBand_of_not_track {s : State} (e : EpochEntry) (b : Nat) (h : s.pmon.pos ≠ .track) :
    s.askBand e b = s.finishBand e b (e.bandTime b) none false false := if_neg h

@[simp] theorem State.planWithProfile_motion (s : State) (b : Nat) (tb : Time) (est : Option Estimate) (d w : Bool) :
    (s.planWithProfile b tb est d w).motion = s.bpln.motion.step s.bpln.settings s.psto.activeTable.rest est := rfl

/-! ### The motion step (R101 to R103) -/

/-- The target that a completed band sets. -/
def Motion.nextTarget (m : Motion) (st : MotionSettings) (rest : Nat) (est : Option Estimate) : Nat :=
  st.target (m.target.getD rest) rest est

theorem Motion.nextTarget_of_target {m : Motion} {g : Nat} (st : MotionSettings) (rest : Nat) (est : Option Estimate)
    (h : m.target = some g) : m.nextTarget st rest est = st.target g rest est := by
  simp [Motion.nextTarget, h]

@[simp] theorem Motion.step_target (m : Motion) (st : MotionSettings) (rest : Nat) (est : Option Estimate) :
    (m.step st rest est).target = some (m.nextTarget st rest est) := rfl

theorem Motion.step_feff {m : Motion} {f : Nat} (st : MotionSettings) (rest : Nat) (est : Option Estimate)
    (h : m.feff = some f) :
    (m.step st rest est).feff = some (slewTo f (m.nextTarget st rest est) st.slew) := by
  simp [Motion.step, Motion.nextTarget, h]

@[simp] theorem Motion.step_strength (m : Motion) (st : MotionSettings) (rest : Nat) (est : Option Estimate) :
    (m.step st rest est).strength = slewTo m.strength (st.goal est) st.strengthStep := rfl

/-- Settles O26: without a profile, by the record of R104. With one, the motion left is `Motion.step`'s, so each clause is
a rule of the slew (R103), the hysteresis (R101) or the loss action (R102), or a field that the record copies. -/
theorem bandCompletionMovesAtMostTheSlew : Obligations.BandCompletionMovesAtMostTheSlew := by
  intro b tb est df wo s
  refine ⟨fun hnone => ?_, fun hpos e => State.askBand_of_not_track e b hpos, fun f goal hactive hfeff hgoal => ?_⟩
  · rw [State.planBand_of_noProfile b tb est df wo hnone]
    exact ⟨rfl, rfl⟩
  · have hstep := Motion.step_feff s.bpln.settings s.psto.activeTable.rest est hfeff
    rw [← MotionSettings.goal_eq] at hgoal
    subst hgoal
    rw [State.planBand_of_profile b tb est df wo hactive, State.planWithProfile_motion, Motion.step_strength]
    refine ⟨_, _, Motion.step_target _ _ _ _, hstep, slewTo_of_le, absDiff_slewTo_of_lt, slewTo_of_le,
      absDiff_slewTo_of_lt, rfl, hstep, rfl, rfl, ?estimate, ?keepLoss, ?restLoss, rfl, ?kind, ?lossKind⟩
    case estimate =>
      rintro x g rfl htarget
      rw [Motion.nextTarget_of_target _ _ _ htarget, MotionSettings.target_some]
      exact ⟨hysteresisTarget_of_lt, hysteresisTarget_of_le⟩
    case keepLoss =>
      rintro g rfl hloss htarget
      rw [Motion.nextTarget_of_target _ _ _ htarget]
      exact MotionSettings.target_none_of_stays g _ hloss
    case restLoss =>
      rintro rfl hloss
      exact MotionSettings.target_none_of_rest _ _ hloss
    case kind => rintro x rfl; rfl
    case lossKind =>
      rintro rfl
      show s.bpln.settings.loss.kind = _
      cases s.bpln.settings.loss <;> rfl

end Sys2Proof.Machine
end

section
/-! PROOFS. The grant of the write channel (R156): who is tied at the highest priority, and whom the grant list and the
cycle order choose among them. -/

namespace Sys2Proof.Machine

/-! ### The tied requesters -/

theorem mem_cycleOrder (r : Requester) : r ∈ cycleOrder := by
  cases r <;> decide

/-- The cycle order after a requester wraps around, so it passes every requester. -/
theorem mem_cycleAfter (l r : Requester) : r ∈ cycleAfter l := by
  cases l <;> cases r <;> decide

@[simp] theorem Arbiter.mem_waiters {a : Arbiter} {r : Requester} : r ∈ a.waiters ↔ a.waiting r = true := by
  simp [Arbiter.waiters, mem_cycleOrder]

theorem Arbiter.mem_tied {a : Arbiter} {r : Requester} :
    r ∈ a.tied ↔ a.waiting r = true ∧ ∀ q, a.waiting q = true → a.prio.get q ≤ a.prio.get r := by
  simp [Arbiter.tied]

/-- The requesters waiting are finitely many, so one of them has the highest priority. -/
theorem Arbiter.exists_mem_tied {a : Arbiter} (h : ∃ r, a.waiting r = true) : ∃ r, r ∈ a.tied := by
  obtain ⟨w, hw⟩ := h
  obtain ⟨r, hr, hmax⟩ := a.waiters.toFinset.exists_max_image a.prio.get ⟨w, by simpa using hw⟩
  exact ⟨r, Arbiter.mem_tied.mpr ⟨by simpa using hr, fun q hq => hmax q (by simpa using hq)⟩⟩

/-- Requester `q` waits at the priority of `r`. -/
def Arbiter.waitsLevelWith (a : Arbiter) (r q : Requester) : Bool :=
  a.waiting q && decide (a.prio.get q = a.prio.get r)

/-- The tied requesters are those that wait at the priority of any one of them. -/
theorem Arbiter.mem_tied_iff_waitsLevelWith {a : Arbiter} {r : Requester} (hr : r ∈ a.tied) (q : Requester) :
    q ∈ a.tied ↔ a.waitsLevelWith r q = true := by
  obtain ⟨hwait, hmax⟩ := Arbiter.mem_tied.mp hr
  rw [Arbiter.mem_tied, Arbiter.waitsLevelWith, Bool.and_eq_true, decide_eq_true_eq]
  constructor
  · rintro ⟨hq, hmaxq⟩
    exact ⟨hq, (hmax q hq).antisymm (hmaxq r hwait)⟩
  · rintro ⟨hq, hlevel⟩
    exact ⟨hq, hlevel ▸ hmax⟩

theorem Arbiter.tied_contains_eq {a : Arbiter} {r : Requester} (hr : r ∈ a.tied) :
    (fun q => a.tied.contains q) = a.waitsLevelWith r := by
  funext q
  rw [Bool.eq_iff_iff, List.contains_iff_mem, Arbiter.mem_tied_iff_waitsLevelWith hr]

/-- The first of the tied requesters is the first in the cycle order that is tied. -/
theorem Arbiter.tied_head? (a : Arbiter) : a.tied.head? = cycleOrder.find? fun q => a.tied.contains q := by
  have hfilter : a.tied = cycleOrder.filter fun q => a.tied.contains q := by
    refine List.filter_filter.trans (List.filter_congr fun q _ => ?_)
    rw [Bool.eq_iff_iff, List.contains_iff_mem, Arbiter.mem_tied]
    simp only [Bool.and_eq_true, List.all_eq_true, Arbiter.mem_waiters, decide_eq_true_eq, and_comm]
  rw [← List.head?_filter, ← hfilter]

/-! ### The choice and the grant -/

/-- The tie rule (1): the tied requester granted last is followed in the cycle order. -/
theorem Arbiter.choose_of_lastGranted {a : Arbiter} {l : Requester}
    (h : (a.grants.find? fun q => a.tied.contains q) = some l) :
    a.choose = (cycleAfter l).find? fun q => a.tied.contains q := by
  rw [Arbiter.choose, h]

/-- The tie rule (2): with none of the tied requesters granted before, the cycle order decides. -/
theorem Arbiter.choose_of_noneGranted {a : Arbiter} (h : (a.grants.find? fun q => a.tied.contains q) = none) :
    a.choose = cycleOrder.find? fun q => a.tied.contains q := by
  rw [Arbiter.choose, h, Arbiter.tied_head?]

/-- Where a requester waits, the choice is made, and it is a tied requester: either rule searches an order that passes
every requester. -/
theorem Arbiter.exists_choose {a : Arbiter} (h : ∃ r, a.waiting r = true) : ∃ r, a.choose = some r ∧ r ∈ a.tied := by
  obtain ⟨top, htop⟩ := Arbiter.exists_mem_tied h
  have hsearch : ∀ order : List Requester, top ∈ order → a.choose = order.find? (fun q => a.tied.contains q) →
      ∃ r, a.choose = some r ∧ r ∈ a.tied := by
    intro order hmem hchoose
    obtain ⟨r, hr⟩ := Option.isSome_iff_exists.mp
      (List.find?_isSome.mpr ⟨top, hmem, List.contains_iff_mem.mpr htop⟩)
    exact ⟨r, hchoose.trans hr, List.contains_iff_mem.mp (List.find?_some hr)⟩
  cases hlast : a.grants.find? fun q => a.tied.contains q with
  | some l => exact hsearch _ (mem_cycleAfter l top) (Arbiter.choose_of_lastGranted hlast)
  | none => exact hsearch _ (mem_cycleOrder top) (Arbiter.choose_of_noneGranted hlast)

theorem Arbiter.grant_of_choose {a : Arbiter} {r : Requester} (hfree : a.owner = none) (hchoose : a.choose = some r) :
    a.grant = { a with owner := some r, begun := false, timer := none,
                       grants := r :: a.grants.filter fun q => decide (q ≠ r) } := by
  rw [Arbiter.grant, hfree, hchoose]

/-- Settles O29: the choice is a tied requester (R156), so its level is that of the tied requesters, and the tie rules
are those by which it was chosen. -/
theorem grantGoesToTheHighestPriority : Obligations.GrantGoesToTheHighestPriority := by
  intro a hfree hwaits
  obtain ⟨r, hchoose, htied⟩ := Arbiter.exists_choose hwaits
  obtain ⟨hwait, hmax⟩ := Arbiter.mem_tied.mp htied
  have hlevel : (fun q => a.waiting q && decide (a.prio.get q = a.prio.get r)) = fun q => a.tied.contains q :=
    (Arbiter.tied_contains_eq htied).symm
  refine ⟨r, ?_⟩
  rw [Arbiter.grant_of_choose hfree hchoose, hlevel]
  exact ⟨rfl, hwait, hmax, rfl, fun _ hlast => (Arbiter.choose_of_lastGranted hlast).symm.trans hchoose,
    fun hnone => (Arbiter.choose_of_noneGranted hnone).symm.trans hchoose⟩

end Sys2Proof.Machine
end

section
/-! PROOFS. Events and rejected slots (chapter 10): the EVENT_ACK record and its effect on the attention line (R172, R173),
and a slot rejected under the first check that it fails (R165 to R167). -/

namespace Sys2Proof.Machine

/-! ### The acknowledge (R172, R173) -/

/-- The kinds that a word names are its low 19 bits. -/
theorem eventsOf_getLsbD (w : Word) {i : Nat} (hi : i < 19) : (eventsOf w).getLsbD i = w.getLsbD i := by
  simp [eventsOf, hi]

@[simp] theorem EventUnit.acknowledge_set (u : EventUnit) (now : Time) (named : BitVec 19) :
    (u.acknowledge now named).set = u.set &&& ~~~named := by
  unfold EventUnit.acknowledge; dsimp only; split <;> rfl

@[simp] theorem EventUnit.acknowledge_mask (u : EventUnit) (now : Time) (named : BitVec 19) :
    (u.acknowledge now named).mask = u.mask := by
  unfold EventUnit.acknowledge; dsimp only; split <;> rfl

/-- Only an asserted line is moved by an acknowledge: into a gap that starts then, if an unmasked event stays (R173). -/
theorem EventUnit.acknowledge_line (u : EventUnit) (now : Time) (named : BitVec 19) :
    (u.acknowledge now named).line =
      if u.line = .asserted then
        if (u.acknowledge now named).set &&& (u.acknowledge now named).mask = 0 then .released else .gap now
      else u.line := by
  rw [EventUnit.acknowledge_set, EventUnit.acknowledge_mask]
  cases hline : u.line with
  | released => simp [EventUnit.acknowledge, hline]
  | asserted => simp [EventUnit.acknowledge, EventUnit.shares, hline]
  | gap start => simp [EventUnit.acknowledge, hline]

@[simp] theorem State.recordAck_evu (s : State) (p : Params) :
    (s.recordAck p).evu = s.evu.acknowledge s.time (eventsOf p.p1) := State.setEvu_evu _ _

@[simp] theorem State.recordAck_crec (s : State) (p : Params) : (s.recordAck p).crec = s.crec := State.setEvu_crec _ _

theorem changes_recordAck {s t : State} {bs : List Block} (p : Params) (he : Block.evu ∈ bs) (h : s.changesOnly t bs) :
    s.changesOnly (t.recordAck p) bs :=
  changes_setEvu _ he h

/-- Counting the record leaves the event unit as its effect left it. -/
@[simp] theorem State.takeWith_evu (s : State) (effect : State → State) :
    (s.takeWith effect).evu = (effect s).evu := State.setCrec_evu _ _

theorem exec_eventAck (dt : Nat) (p : Params) (s : State) : exec (.eventAck dt p) s = execEventAck dt p s := rfl

/-- EVENT_ACK where records are taken: the record's time passes, and the record is taken with its effect. -/
theorem exec_eventAck_of_takesRecords {s : State} (dt : Nat) (p : Params) (htakes : s.takesRecords = true) :
    exec (.eventAck dt p) s = .next ((s.begin dt).takeWith fun u => u.recordAck p) := by
  rw [exec_eventAck, execEventAck, State.recordRow_of_takesRecords dt _ htakes]

/-- Settles O45: the event unit left is that of `EventUnit.acknowledge` at the time of the record's end, the record is
counted, and no other block is written (R172, R173). -/
theorem ackRemovesTheNamedEvents : Obligations.AckRemovesTheNamedEvents := by
  intro dt p s htakes
  have hevu : ((s.begin dt).takeWith fun u => u.recordAck p).evu =
      s.evu.acknowledge (s.time + BitVec.ofNat 32 dt) (eventsOf p.p1) := by
    rw [State.takeWith_evu, State.recordAck_evu, State.begin_evu, State.begin_time_of_takesRecords dt htakes]
  refine ⟨_, exec_eventAck_of_takesRecords dt p htakes, ?_⟩
  rw [hevu]
  refine ⟨fun i hi => ?_, EventUnit.acknowledge_mask _ _ _, EventUnit.acknowledge_line _ _ _, ?_, ?_⟩
  · rw [EventUnit.acknowledge_set, BitVec.getLsbD_and, BitVec.getLsbD_not, eventsOf_getLsbD p.p1 hi, decide_eq_true hi,
      Bool.true_and]
  · rw [State.takeWith_crec, State.recordAck_crec, State.begin_crec]; rfl
  · exact changes_takeWith (by decide) (changes_recordAck p (by decide) (State.changesOnly_refl _ _))

/-! ### The first check that fails (R165, R166) -/

theorem slotReason_of_partial {slot : Slot} (hpart : slot.full = false) : slotReason slot = some .malformed := by
  simp [slotReason, hpart]

theorem slotReason_of_badSum {slot : Slot} (hfull : slot.full = true) (hsum : checkSumOk slot.data = false) :
    slotReason slot = some .check := by
  simp [slotReason, hfull, hsum]

theorem slotReason_of_badKind {slot : Slot} (hfull : slot.full = true) (hsum : checkSumOk slot.data = true)
    (hkind : kindOf slot.data < 1 ∨ 14 < kindOf slot.data) : slotReason slot = some .kind := by
  rw [slotReason, if_neg (by simp [hfull]), if_neg (by simp [hsum]), if_pos hkind]

theorem slotReason_of_badTarget {slot : Slot} (hfull : slot.full = true) (hsum : checkSumOk slot.data = true)
    (hlow : 1 ≤ kindOf slot.data) (hhigh : kindOf slot.data ≤ 14)
    (htarget : targetOk (kindOf slot.data) (targetOf slot.data) = false) : slotReason slot = some .target := by
  rw [slotReason, if_neg (by simp [hfull]), if_neg (by simp [hsum]), if_neg (by omega), if_pos (by simp [htarget])]

/-! ### The slot rejected (R166, R167) -/

@[simp] theorem State.rejectSlot_crec (s : State) (r : RejectReason) : (s.rejectSlot r).crec = s.crec.reject r :=
  (State.latchIf_crec _ _ _).trans (State.setCrec_crec _ _)

/-- The rejection that reaches the limit latches CONTROL_FAULT; one below it leaves the event unit alone (R167). -/
theorem State.rejectSlot_evu (s : State) (r : RejectReason) :
    (s.rejectSlot r).evu =
      if s.crec.limit ≤ s.crec.consec + 1 then s.evu.latch s.isReady .controlFault else s.evu := by
  unfold State.rejectSlot
  simp only [State.latchIf_evu, decide_eq_true_eq]
  rfl

theorem changes_rejectSlot {s t : State} {bs : List Block} (r : RejectReason) (hc : Block.crec ∈ bs)
    (he : Block.evu ∈ bs) (h : s.changesOnly t bs) : s.changesOnly (t.rejectSlot r) bs :=
  changes_latchIf _ _ he (changes_setCrec _ hc h)

theorem State.rejectFailing_of_slotReason {slot : Slot} {r : RejectReason} (s : State)
    (hreason : slotReason slot = some r) : s.rejectFailing slot = s.rejectSlot r := by
  rw [State.rejectFailing, hreason]

theorem exec_recordRejected (dt : Nat) (slot : Slot) (s : State) :
    exec (.recordRejected dt slot) s = execRecordRejected dt slot s := rfl

/-- RECORD_REJECTED where records are taken: the slot's time passes, and a slot that fails a check is rejected. -/
theorem exec_recordRejected_of_slotReason {s : State} {slot : Slot} {r : RejectReason} (dt : Nat)
    (htakes : s.takesRecords = true) (hreason : slotReason slot = some r) :
    exec (.recordRejected dt slot) s = .next ((s.begin dt).rejectSlot r) := by
  rw [exec_recordRejected, execRecordRejected, State.recordRow_of_takesRecords dt _ htakes,
    State.rejectFailing_of_slotReason _ hreason]

/-- Settles O55: whichever check fails first, its reason is `slotReason`'s, so the slot is counted under it; the event unit
is the one of R167, and no other block is written (R165 to R167). -/
theorem rejectedSlotIsCountedUnderItsFirstReason : Obligations.RejectedSlotIsCountedUnderItsFirstReason := by
  intro dt slot s htakes r hfails
  have hreason : slotReason slot = some r := by
    obtain ⟨rfl, hpart⟩ | ⟨rfl, hfull, hsum⟩ | ⟨rfl, hfull, hsum, hkind⟩ | ⟨rfl, hfull, hsum, hlow, hhigh, htarget⟩ :=
      hfails
    · exact slotReason_of_partial hpart
    · exact slotReason_of_badSum hfull hsum
    · exact slotReason_of_badKind hfull hsum hkind
    · exact slotReason_of_badTarget hfull hsum hlow hhigh htarget
  have hevu := State.rejectSlot_evu (s.begin dt) r
  rw [State.begin_crec, State.begin_evu] at hevu
  refine ⟨_, exec_recordRejected_of_slotReason dt htakes hreason, ?_, fun hlimit => ?_, fun hbelow => ?_, ?_⟩
  · rw [State.rejectSlot_crec, State.begin_crec]; rfl
  · rw [hevu.trans (if_pos hlimit), EventUnit.latch_set]; rfl
  · rw [hevu.trans (if_neg (Nat.not_le.mpr hbelow))]
  · exact changes_rejectSlot r (by decide) (by decide) (State.changesOnly_refl _ _)

end Sys2Proof.Machine
end

section
/-! PROOFS. The elementary updates. Planning, frames and reports are made of a few updates of the blocks that the
invariants speak of (`Inner`); every command outside start-up is a chain of these and of the updates of `Elementary`. An
invariant then has to be checked on the updates only. -/

namespace Sys2Proof.Machine

/-! ### The updates that planning, frames and reports are made of -/

/-- The blocks that no invariant speaks of. -/
def freeBlocks : List Block :=
  [.llr, .pmon, .fest, .bpln, .lmem, .ctx0, .ctx1, .stall0, .stall1, .warb, .grant, .crec, .line, .outputs]

/-- The store `q` holds canonical tables where the store `p` does. -/
def ProfileStore.keepsCanonical (p q : ProfileStore) : Prop :=
  p.activeTable.wf = true → p.stagingTable.wf = true → q.activeTable.wf = true ∧ q.stagingTable.wf = true

/-- An update that planning, a frame or a report makes. -/
inductive Inner : State → State → Prop
  | free {s t : State} (h : s.changesOnly t freeBlocks) : Inner s t
  | latch (s : State) (e : Event) : Inner s (s.latch e)
  | store (s : State) (p : ProfileStore) (h : s.psto.keepsCanonical p) : Inner s (s.setPsto p)
  | entries (s : State) (m : EpochTable) (h : m.entries.length ≤ s.mept.entries.length) : Inner s (s.setMept m)
  | create (s : State) (m : Time) (k : Bool) (f : Both Bool) : Inner s (s.createEntry m k f)
  | reads (s : State) (rs : List ReadOut) (hs : List HoldEntry) (h : hs.length ≤ s.pb.holds.length) :
      Inner s (s.setPb { s.pb with reads := rs, holds := hs })
  | reports (s : State) (v : ReportWriter) (h : v.queue.length ≤ max 2 s.rpw.queue.length) : Inner s (s.setRpw v)

/-- `t` comes from `s` by updates of planning, frames and reports. -/
def Inners : State → State → Prop := Relation.ReflTransGen Inner

section Blocks

variable {s t u : State}

theorem inners_refl (s : State) : Inners s s := .refl

theorem inners_free (h : Inners s t) (k : t.changesOnly u freeBlocks) : Inners s u := h.tail (.free k)

theorem inners_setBpln (v : Planner) (h : Inners s t) : Inners s (t.setBpln v) :=
  inners_free h (changes_setBpln v (by decide) (t.changesOnly_refl _))

theorem inners_setCtx (c : Ctx) (v : Context) (h : Inners s t) : Inners s (t.setCtx c v) :=
  inners_free h (changes_setCtx c v (by cases c <;> decide) (by cases c <;> decide) (t.changesOnly_refl _))

theorem inners_mapFrame (c : Ctx) (f : Frame → Frame) (h : Inners s t) : Inners s (t.mapFrame c f) :=
  inners_setCtx c _ h

theorem inners_setLmem (v : LineMemory) (h : Inners s t) : Inners s (t.setLmem v) :=
  inners_free h (changes_setLmem v (by decide) (t.changesOnly_refl _))

theorem inners_setWarb (v : Arbiter) (h : Inners s t) : Inners s (t.setWarb v) :=
  inners_free h (changes_setWarb v (by decide) (by decide) (t.changesOnly_refl _))

theorem inners_emit (o : Output) (h : Inners s t) : Inners s (t.emit o) :=
  inners_free h (changes_emit o (by decide) (t.changesOnly_refl _))

theorem inners_setPmon (v : PositionMonitor) (h : Inners s t) : Inners s (t.setPmon v) :=
  inners_free h (changes_setPmon v (by decide) (t.changesOnly_refl _))

theorem inners_setLlr (v : LineReceiver) (h : Inners s t) : Inners s (t.setLlr v) :=
  inners_free h (changes_setLlr v (by decide) (t.changesOnly_refl _))

theorem inners_setFest (v : Estimator) (h : Inners s t) : Inners s (t.setFest v) :=
  inners_free h (changes_setFest v (by decide) (t.changesOnly_refl _))

theorem inners_setCrec (v : ControlUnit) (h : Inners s t) : Inners s (t.setCrec v) :=
  inners_free h (changes_setCrec v (by decide) (t.changesOnly_refl _))

theorem inners_settle (h : Inners s t) : Inners s t.settle :=
  inners_free h (changes_settle (by decide) (by decide) (by decide) (t.changesOnly_refl _))

theorem inners_latch (e : Event) (h : Inners s t) : Inners s (t.latch e) := h.tail (.latch t e)

theorem inners_latchIf (b : Bool) (e : Event) (h : Inners s t) : Inners s (t.latchIf b e) := by
  cases b
  · exact h
  · exact inners_latch e h

theorem inners_entries (m : EpochTable) (hm : m.entries.length ≤ t.mept.entries.length) (h : Inners s t) :
    Inners s (t.setMept m) := h.tail (.entries t m hm)

theorem inners_update (id : Nat) (f : EpochEntry → EpochEntry) (h : Inners s t) :
    Inners s (t.setMept (t.mept.update id f)) :=
  inners_entries _ (by simp [EpochTable.update]) h

theorem inners_reads (rs : List ReadOut) (hs : List HoldEntry) (hl : hs.length ≤ t.pb.holds.length)
    (h : Inners s t) : Inners s (t.setPb { t.pb with reads := rs, holds := hs }) := h.tail (.reads t rs hs hl)

end Blocks

/-! ### Planning -/

section Planning

variable {s t : State}

theorem inners_tryEmit (c : Ctx) (h : Inners s t) : Inners s (t.tryEmit c) :=
  inners_free h (changes_tryEmit c (by decide) (t.changesOnly_refl _))

theorem inners_obtainBand (c : Ctx) (id : Nat) (r : BandRecord) (h : Inners s t) : Inners s (t.obtainBand c id r) := by
  unfold State.obtainBand; split
  · exact h
  · exact inners_tryEmit c (inners_latchIf _ _ (inners_setCtx _ _ h))

theorem inners_answer (c : Ctx) (id : Nat) (r : BandRecord) (h : Inners s t) : Inners s (t.answer c id r) := by
  unfold State.answer; split
  · exact inners_obtainBand _ _ _ (inners_setBpln _ h)
  · exact h

theorem inners_finishBand (e : EpochEntry) (b : Nat) (tb : Time) (est : Option Estimate) (d w : Bool)
    (h : Inners s t) : Inners s (t.finishBand e b tb est d w) :=
  inners_answer _ _ _ (inners_answer _ _ _ (inners_latchIf _ _ (inners_setBpln _ (inners_update _ _ h))))

theorem inners_swapProfiles (h : Inners s t) : Inners s t.swapProfiles :=
  inners_latch _ (inners_setBpln _ (h.tail (.store t _ fun ha hs => ⟨hs, ha⟩)))

theorem inners_beginBand (b : Nat) (h : Inners s t) : Inners s (t.beginBand b) := by
  unfold State.beginBand
  dsimp only
  split
  · exact inners_setBpln _ (inners_swapProfiles h)
  · exact inners_setBpln _ h

theorem inners_resumeWaiters (h : Inners s t) : Inners s t.resumeWaiters :=
  inners_free h (changes_resumeWaiters (by decide) (by decide) (t.changesOnly_refl _))

theorem inners_askBand (e : EpochEntry) (b : Nat) (h : Inners s t) : Inners s (t.askBand e b) := by
  unfold State.askBand
  dsimp only
  split
  · split
    · exact inners_finishBand _ _ _ _ _ _ h
    · split
      · exact inners_finishBand _ _ _ _ _ _ (inners_resumeWaiters h)
      · exact inners_setBpln _ h
  · exact inners_finishBand _ _ _ _ _ _ h

theorem inners_planRun : ∀ (n : Nat) {t : State}, Inners s t → Inners s (planRun n t)
  | 0, _, h => h
  | n + 1, t, h => by
    unfold planRun
    split
    · split
      · exact h
      · split
        · exact h
        · exact inners_planRun n (inners_askBand _ _ (inners_beginBand _ h))
    · exact h

theorem inners_plan (h : Inners s t) : Inners s t.plan := inners_planRun _ h

theorem inners_requestBand (c : Ctx) (id b : Nat) (h : Inners s t) : Inners s (t.requestBand c id b) := by
  unfold State.requestBand; split
  · exact inners_obtainBand _ _ _ h
  · exact inners_plan (inners_setBpln _ h)

theorem inners_requestNext (c : Ctx) (h : Inners s t) : Inners s (t.requestNext c) := by
  unfold State.requestNext; split
  · exact h
  · exact inners_requestBand _ _ _ h

theorem inners_endDeferral (est : Option Estimate) (w : Bool) (h : Inners s t) : Inners s (t.endDeferral est w) := by
  unfold State.endDeferral; split
  · exact h
  · split
    · exact h
    · exact inners_plan (inners_finishBand _ _ _ _ _ _ h)

theorem inners_waitOut (h : Inners s t) : Inners s t.waitOut := by
  unfold State.waitOut; split
  · exact h
  · exact inners_endDeferral _ _ h

theorem inners_offerInsertion (h : Inners s t) : Inners s t.offerInsertion := by
  unfold State.offerInsertion; split
  · exact h
  · split
    · exact h
    · exact inners_endDeferral _ _ h

end Planning

/-! ### The epoch table and the contexts' frames -/

section Frames

variable {s t : State}

theorem inners_holdEntries (kept : List EpochEntry) (hk : kept.length ≤ t.mept.entries.length) (h : Inners s t) :
    Inners s (t.holdEntries kept) := inners_setBpln _ (inners_entries _ hk h)

theorem inners_examineEntries (h : Inners s t) : Inners s t.examineEntries :=
  inners_holdEntries _ (List.length_filter_le _ _) h

theorem inners_createEntry (m : Time) (k : Bool) (f : Both Bool) (h : Inners s t) :
    Inners s (t.createEntry m k f) := h.tail (.create t m k f)

theorem inners_bindEpoch (c : Ctx) (h : Inners s t) : Inners s (t.bindEpoch c).1 := by
  unfold State.bindEpoch; split
  · exact inners_update _ _ h
  · exact inners_createEntry _ _ _ (inners_latch _ h)

theorem inners_sendRead (r : UpRead) (f : ReadFate) (h : Inners s t) : Inners s (t.sendRead r f) := by
  cases f
  · exact inners_emit _ (inners_reads _ _ le_rfl h)
  · exact inners_reads _ _ le_rfl h

@[simp] theorem State.sendRead_holds (s : State) (r : UpRead) (f : ReadFate) :
    (s.sendRead r f).pb.holds = s.pb.holds := by cases f <;> rfl

theorem inners_releaseHolds : ∀ (todo kept : List HoldEntry) {t : State},
    (kept ++ todo).length ≤ t.pb.holds.length → Inners s t → Inners s (releaseHolds t kept todo)
  | [], kept, t, hl, h => inners_reads t.pb.reads kept (by simpa using hl) h
  | x :: todo, kept, t, hl, h => by
    simp only [List.length_append, List.length_cons] at hl
    unfold releaseHolds; split
    · exact inners_releaseHolds todo kept (by simp; omega) (inners_sendRead _ _ h)
    · exact inners_releaseHolds todo _ (by simp; omega) h

theorem inners_releaseReads (h : Inners s t) : Inners s t.releaseReads := inners_releaseHolds _ _ le_rfl h

theorem inners_mapHoldRows (c : Ctx) (f : List Nat → List Nat) (h : Inners s t) : Inners s (t.mapHoldRows c f) :=
  inners_reads t.pb.reads _ (by simp) h

theorem inners_emptyHolds (c : Ctx) (h : Inners s t) : Inners s (t.emptyHolds c) :=
  inners_releaseReads (inners_mapHoldRows c _ h)

theorem inners_retireInHolds (c : Ctx) (y : Nat) (h : Inners s t) : Inners s (t.retireInHolds c y) :=
  inners_releaseReads (inners_mapHoldRows c _ h)

@[simp] theorem presentFirst_length (addr : Nat) : ∀ q : List QueuedReport, (presentFirst addr q).length = q.length
  | [] => rfl
  | x :: q => by unfold presentFirst; split <;> simp [presentFirst_length addr q]

@[simp] theorem writeFirst_length : ∀ q : List QueuedReport, (writeFirst q).length = q.length
  | [] => rfl
  | x :: q => by unfold writeFirst; split <;> simp [writeFirst_length q]

theorem completeFirst_length_le : ∀ q : List QueuedReport, (completeFirst q).length ≤ q.length
  | [] => le_rfl
  | x :: q => by
    have := completeFirst_length_le q
    unfold completeFirst; split <;> simp [this]

theorem inners_reports (v : ReportWriter) (hv : v.queue.length ≤ max 2 t.rpw.queue.length) (h : Inners s t) :
    Inners s (t.setRpw v) := h.tail (.reports t v hv)

theorem inners_presentReport (h : Inners s t) : Inners s t.presentReport := by
  unfold State.presentReport; split
  · exact inners_setWarb _ (inners_reports _ (by simp) h)
  · exact h

/-- A report joins the queue only where it has room (R176). -/
theorem inners_generate (r : Report) (h : Inners s t) : Inners s (t.generate r) := by
  unfold State.generate State.queueReport; split
  · exact h
  · split
    · exact inners_presentReport (inners_reports _ (by simp; omega) h)
    · exact inners_latch _ (inners_reports _ (by simp) h)

theorem inners_consumeAll (c : Ctx) (h : Inners s t) : Inners s (t.consumeAll c) := inners_entries _ (by simp) h

theorem inners_applySettings (c : Ctx) (st : Settings) (h : Inners s t) : Inners s (t.applySettings c st) := by
  have h1 : ∀ v b, Inners s ((t.setCtx c v).latchIf b .depthLimit) := fun v b => inners_latchIf _ _ (inners_setCtx c v h)
  unfold State.applySettings
  dsimp only
  split
  · exact h1 _ _
  · split
    · exact inners_plan (inners_examineEntries (h1 _ _))
    · exact inners_plan (inners_examineEntries (inners_consumeAll c (h1 _ _)))

theorem inners_redepth (c : Ctx) (h : Inners s t) : Inners s (t.redepth c) := inners_latchIf _ _ (inners_setCtx _ _ h)

theorem inners_applySplit (n : Nat) (h : Inners s t) : Inners s (t.applySplit n) :=
  inners_redepth _ (inners_redepth _ (inners_setLmem _ h))

theorem inners_applyHeldSplit (h : Inners s t) : Inners s t.applyHeldSplit := by
  unfold State.applyHeldSplit; split
  · exact h
  · split
    · exact inners_applySplit _ (inners_setLmem _ h)
    · exact h

theorem inners_applyNext (c : Ctx) (h : Inners s t) : Inners s (t.applyNext c) := by
  unfold State.applyNext; split
  · exact h
  · exact inners_applySettings _ _ (inners_setCtx _ _ h)

theorem inners_releaseEntry (c : Ctx) (id : Nat) (h : Inners s t) : Inners s (t.releaseEntry c id) :=
  inners_update _ _ h

theorem inners_endFrame (c : Ctx) (f : Frame) (o : FrameOutcome) (h : Inners s t) : Inners s (t.endFrame c f o) :=
  inners_applyHeldSplit (inners_applyNext c (inners_emptyHolds c (inners_setCtx _ _ (inners_plan
    (inners_examineEntries (inners_releaseEntry _ _ (inners_generate _ h)))))))

theorem inners_requestRow (c : Ctx) (y n : Nat) (raw : Bool) (h : Inners s t) : Inners s (t.requestRow c y n raw) :=
  inners_free h (changes_requestRow c y n raw (by decide) (t.changesOnly_refl _))

theorem inners_drain (c : Ctx) (h : Inners s t) : Inners s (t.drain c) := by
  unfold State.drain; split
  · exact h
  · dsimp only
    split
    · split
      · exact inners_requestRow _ _ _ _ (inners_setCtx _ _ h)
      · split
        · exact inners_endFrame _ _ _ (inners_setCtx _ _ h)
        · exact inners_setCtx _ _ h
    · exact h

theorem inners_beginAbort (c : Ctx) (o : FrameOutcome) (h : Inners s t) : Inners s (t.beginAbort c o) := by
  unfold State.beginAbort; split
  · exact inners_setWarb _ (inners_setBpln _ (inners_latch _ (inners_setCtx _ _ h)))
  · exact h

theorem inners_abort (c : Ctx) (o : FrameOutcome) (h : Inners s t) : Inners s (t.abort c o) := by
  unfold State.abort; split
  · exact inners_drain _ (inners_beginAbort _ _ h)
  · exact h

theorem inners_abortBoth (o : FrameOutcome) (h : Inners s t) : Inners s (t.abortBoth o) := by
  have h1 := inners_beginAbort .ctx1 o (inners_beginAbort .ctx0 o h)
  have h2 : ∀ (b : Bool) (c : Ctx) {u : State}, Inners s u → Inners s (if b = true then u.drain c else u) := by
    intro b c u hu
    split
    · exact inners_drain _ hu
    · exact hu
  exact h2 _ _ (h2 _ _ h1)

theorem inners_finishIfComplete (c : Ctx) (h : Inners s t) : Inners s (t.finishIfComplete c) := by
  unfold State.finishIfComplete; split
  · exact h
  · exact inners_endFrame _ _ _ h

theorem inners_countStray (c : Ctx) (h : Inners s t) : Inners s (t.countStray c) := inners_setCtx _ _ h

theorem inners_acceptWrite (c : Ctx) (w : UpWrite) (h : Inners s t) : Inners s (t.acceptWrite c w) :=
  inners_tryEmit _ (inners_setCtx _ _ h)

theorem inners_beginFrame (c : Ctx) (h : Inners s t) : Inners s (t.beginFrame c) :=
  inners_setCtx _ _ (inners_plan (inners_bindEpoch c h))

theorem inners_passFrame (c : Ctx) (h : Inners s t) : Inners s (t.passFrame c) :=
  inners_plan (inners_examineEntries (inners_releaseEntry _ _ (inners_generate _ (inners_plan (inners_bindEpoch c h)))))

theorem inners_offerBusy (c : Ctx) (a : FrameArea) (w : UpWrite) (h : Inners s t) : Inners s (t.offerBusy c a w).2 := by
  unfold State.offerBusy; split
  · exact h
  · exact inners_countStray _ h

theorem inners_offerIdle (c : Ctx) (a : FrameArea) (w : UpWrite) (h : Inners s t) : Inners s (t.offerIdle c a w).2 := by
  unfold State.offerIdle
  dsimp only
  split
  · exact inners_countStray _ h
  · split
    · exact inners_beginFrame _ h
    · split
      · exact inners_finishIfComplete _ (inners_requestNext _ (inners_acceptWrite _ _ (inners_beginFrame _ h)))
      · exact inners_countStray _ (inners_abort _ _ (inners_beginFrame _ h))

theorem inners_offerRunning (c : Ctx) (a : FrameArea) (w : UpWrite) (h : Inners s t) :
    Inners s (t.offerRunning c a w).2 := by
  unfold State.offerRunning
  split
  · exact h
  · split
    · split
      · exact inners_finishIfComplete _ (inners_acceptWrite _ _ h)
      · exact h
    · exact inners_offerBusy _ _ _ (inners_abort _ _ h)

/-- An offer is made of updates of planning, frames and reports (R11, R135 to R140). -/
theorem inners_offer (c : Ctx) (a : FrameArea) (w : UpWrite) (h : Inners s t) : Inners s (t.offer c a w).2 := by
  unfold State.offer
  split
  · exact h
  · split
    · unfold State.offerPass
      dsimp only
      split
      · exact inners_passFrame _ h
      · exact h
    · exact inners_offerIdle _ _ _ h
  · exact inners_offerRunning _ _ _ h
  · exact inners_offerBusy _ _ _ h
  · exact inners_offerBusy _ _ _ h

end Frames

end Sys2Proof.Machine
end

section
/-! PROOFS. The commands as chains of elementary updates: every command but the header, an image record and the resets is
a chain of `Elementary` updates after its own time, and so is what follows the header or an image record. -/

namespace Sys2Proof.Machine

/-! ### The updates that commands are made of -/

/-- An update that a command makes: one of planning, frames and reports, or one of the command's own. -/
inductive Elementary : State → State → Prop
  | inner {s t : State} (h : Inner s t) : Elementary s t
  | acknowledge (s : State) (now : Time) (named : BitVec 19) :
      Elementary s (s.setEvu (s.evu.acknowledge now named))
  | remask (s : State) (mask : BitVec 19) : Elementary s (s.setEvu (s.evu.remask s.isReady mask))
  | drive (s : State) (h : s.isReady = true) : Elementary s (s.setEvu s.evu.drive)
  | clear (s : State) : Elementary s s.clearTrack
  | insert (s : State) (x : Sample) (h : s.ptrk.staleAt x.t = false) : Elementary s (s.setPtrk (s.ptrk.insert x))
  | traffic (s : State) (v : PortBridge) (hbase : v.controlBase = s.pb.controlBase)
      (hresp : v.responses.length ≤ max 32 s.pb.responses.length)
      (hholds : v.holds.length ≤ max 8 s.pb.holds.length) : Elementary s (s.setPb v)
  | loader (s : State) (v : StoreLoader) (hpart : v.part = s.stl.part) (hrate : v.lineRate = s.stl.lineRate) :
      Elementary s (s.setStl v)

/-- `t` comes from `s` by elementary updates. -/
def Updates : State → State → Prop := Relation.ReflTransGen Elementary

/-- What every elementary update keeps, a chain of them keeps. -/
theorem Updates.keeps {P : State → Prop} (hP : ∀ s t, Elementary s t → P s → P t) {s t : State} (h : Updates s t)
    (hs : P s) : P t := by
  induction h with
  | refl => exact hs
  | tail _ hlast ih => exact hP _ _ hlast ih

/-- What every update of planning, frames and reports keeps, a chain of them keeps. -/
theorem Inners.keeps {P : State → Prop} (hP : ∀ s t, Inner s t → P s → P t) {s t : State} (h : Inners s t)
    (hs : P s) : P t := by
  induction h with
  | refl => exact hs
  | tail _ hlast ih => exact hP _ _ hlast ih

section Chains

variable {s t u : State}

theorem updates_refl (s : State) : Updates s s := .refl

theorem updates_trans (h : Updates s t) (k : Updates t u) : Updates s u := Relation.ReflTransGen.trans h k

theorem Inners.updates (h : Inners s t) : Updates s t := by
  induction h with
  | refl => exact .refl
  | tail _ hlast ih => exact ih.tail (.inner hlast)

theorem updates_inners (h : Updates s t) (k : Inners t u) : Updates s u := updates_trans h k.updates

theorem updates_settle (h : Updates s t) : Updates s t.settle := updates_inners h (inners_settle (inners_refl t))

/-! ### The head of the write channel -/

theorem updates_traffic (v : PortBridge) (hbase : v.controlBase = t.pb.controlBase)
    (hresp : v.responses.length ≤ max 32 t.pb.responses.length) (hholds : v.holds.length ≤ max 8 t.pb.holds.length)
    (h : Updates s t) : Updates s (t.setPb v) := h.tail (.traffic t v hbase hresp hholds)

theorem updates_dropHead (h : Updates s t) : Updates s t.dropHead :=
  updates_traffic _ rfl (by simp) (by simp) h

theorem updates_appendResponse (e : RespEntry) (hroom : t.pb.responses.length < 32) (h : Updates s t) :
    Updates s (t.appendResponse e) := updates_traffic _ rfl (by simp; omega) (by simp) h

theorem updates_presentPass (h : Updates s t) : Updates s t.presentPass :=
  updates_inners h (inners_free (inners_refl t) (changes_presentPass (by decide) (t.changesOnly_refl _)))

theorem updates_passHead (w : UpWrite) (hroom : t.pb.responses.length < 32) (h : Updates s t) :
    Updates s (t.passHead w) := updates_presentPass (updates_appendResponse _ hroom (updates_dropHead h))

theorem updates_popList : ∀ (l : List RespEntry) {t : State}, l.length ≤ t.pb.responses.length → Updates s t →
    Updates s (Sys2Proof.Machine.popResponses t l)
  | [], _, _, h => updates_traffic _ rfl (by simp) (by simp) h
  | x :: l, t, hl, h => by
    unfold Sys2Proof.Machine.popResponses; split
    · exact updates_popList l (Nat.le_of_succ_le hl) (updates_inners h (inners_emit _ (inners_refl t)))
    · exact updates_traffic _ rfl (by simp at hl ⊢; omega) (by simp) h

theorem updates_popResponses (h : Updates s t) : Updates s t.popResponses := updates_popList _ le_rfl h

theorem updates_interceptHead (w : UpWrite) (hroom : t.pb.responses.length < 32) (h : Updates s t) :
    Updates s (t.interceptHead w) :=
  updates_popResponses (updates_appendResponse _ hroom (updates_dropHead h))

/-! ### The profile store and the control records -/

theorem copyBeats_canonical (base : Nat) : ∀ (xs : List (Nat × Nat × Beat)) (p : ProfileStore),
    p.keepsCanonical (xs.foldl (fun p x => p.copyBeat base x) p)
  | [], _, ha, hs => ⟨ha, hs⟩
  | x :: xs, p, ha, hs => by
    obtain ⟨hs', ha'⟩ := ProfileStore.copyBeat_wf (p := p) base x hs
    exact copyBeats_canonical base xs (p.copyBeat base x) (by rwa [ha']) hs'

theorem updates_setPsto (p : ProfileStore) (hp : t.psto.keepsCanonical p) (h : Updates s t) : Updates s (t.setPsto p) :=
  h.tail (.inner (.store t p hp))

theorem updates_latch (e : Event) (h : Updates s t) : Updates s (t.latch e) := h.tail (.inner (.latch t e))

theorem updates_latchIf (b : Bool) (e : Event) (h : Updates s t) : Updates s (t.latchIf b e) :=
  updates_inners h (inners_latchIf b e (inners_refl t))

theorem updates_captureProfile (base : Nat) (w : UpWrite) (h : Updates s t) : Updates s (t.captureProfile base w) := by
  unfold State.captureProfile; split
  · exact updates_latch _ h
  · exact updates_setPsto _ (copyBeats_canonical base _ _) h

theorem updates_setCrec (v : ControlUnit) (h : Updates s t) : Updates s (t.setCrec v) :=
  updates_inners h (inners_setCrec v (inners_refl t))

theorem updates_setPmon (v : PositionMonitor) (h : Updates s t) : Updates s (t.setPmon v) :=
  updates_inners h (inners_setPmon v (inners_refl t))

theorem updates_setLlr (v : LineReceiver) (h : Updates s t) : Updates s (t.setLlr v) :=
  updates_inners h (inners_setLlr v (inners_refl t))

theorem updates_setBpln (v : Planner) (h : Updates s t) : Updates s (t.setBpln v) :=
  updates_inners h (inners_setBpln v (inners_refl t))

theorem updates_setWarb (v : Arbiter) (h : Updates s t) : Updates s (t.setWarb v) :=
  updates_inners h (inners_setWarb v (inners_refl t))

theorem updates_clearTrack (h : Updates s t) : Updates s t.clearTrack := h.tail (.clear t)

theorem updates_changeSettings (c : Ctx) (f : Settings → Settings) (h : Updates s t) :
    Updates s (t.changeSettings c f) := by
  unfold State.changeSettings; split
  · exact updates_inners h (inners_applySettings _ _ (inners_refl t))
  · exact updates_inners h (inners_setCtx _ _ (inners_refl t))

theorem updates_recordOptics (c : Ctx) (p : Params) (h : Updates s t) : Updates s (t.recordOptics c p) :=
  updates_inners (updates_changeSettings c p.optics h) (inners_setCtx _ _ (inners_refl _))

theorem updates_recordLineMemory (p : Params) (h : Updates s t) : Updates s (t.recordLineMemory p) := by
  unfold State.recordLineMemory; split
  · exact updates_inners h (inners_applySplit _ (inners_refl t))
  · exact updates_inners h (inners_setLmem _ (inners_refl t))

theorem updates_endDeferral (est : Option Estimate) (w : Bool) (h : Updates s t) : Updates s (t.endDeferral est w) :=
  updates_inners h (inners_endDeferral est w (inners_refl t))

theorem updates_expireWindow (h : Updates s t) : Updates s t.expireWindow :=
  updates_endDeferral none false (updates_latch _ (updates_setPmon _ h))

theorem updates_trackingExpiry (h : Updates s t) : Updates s t.trackingExpiry := by
  unfold State.trackingExpiry; split
  · exact updates_expireWindow h
  · exact h

theorem updates_trackingDeferral (h : Updates s t) : Updates s t.trackingDeferral := by
  unfold State.trackingDeferral; split
  · exact h
  · split
    · split
      · exact updates_inners h (inners_waitOut (inners_refl t))
      · exact h
    · exact updates_endDeferral _ _ h

theorem updates_track (p : Params) (h : Updates s t) : Updates s (t.track p) := by
  have h1 : Updates s (t.setTracking p) :=
    updates_inners h (inners_setFest _ (inners_setPmon _ (inners_refl t)))
  unfold State.track
  dsimp only
  split
  · split
    · exact updates_trackingDeferral (updates_trackingExpiry h1)
    · exact updates_trackingExpiry (updates_trackingDeferral h1)
  · exact updates_trackingExpiry (updates_trackingDeferral h1)

theorem updates_recordProfileWindow (p : Params) (h : Updates s t) : Updates s (t.recordProfileWindow p) :=
  updates_setPsto _ (fun ha hs => ⟨ha, hs⟩) (updates_traffic _ rfl (by simp) (by simp) h)

theorem updates_commitProfile (h : Updates s t) : Updates s t.commitProfile :=
  updates_latch _ (updates_setPsto _ (fun ha hs => ProfileStore.commit_wf ha hs) h)

theorem updates_recordMask (p : Params) (h : Updates s t) : Updates s (t.recordMask p) :=
  updates_setCrec _ (h.tail (.remask t _))

theorem ring_queue_length_le (r : ReportWriter) (p : Params) : (r.ring p).queue.length ≤ r.queue.length := by
  unfold ReportWriter.ring
  dsimp only
  split
  · exact List.length_filter_le _ _
  · exact le_rfl

theorem updates_setRing (p : Params) (h : Updates s t) : Updates s (t.setRing p) :=
  updates_latchIf _ _ (updates_inners h (inners_reports _ (le_max_of_le_right (ring_queue_length_le _ p)) (inners_refl t)))

theorem updates_abort (c : Ctx) (o : FrameOutcome) (h : Updates s t) : Updates s (t.abort c o) :=
  updates_inners h (inners_abort c o (inners_refl t))

theorem updates_recordResetAll (h : Updates s t) : Updates s t.recordResetAll := by
  unfold State.recordResetAll; split
  · exact updates_inners (h.tail (.loader t { t.stl with pendingReset := true } rfl rfl)) (inners_abortBoth _ (inners_refl _))
  · exact h

theorem updates_resetTracking (h : Updates s t) : Updates s t.resetTracking :=
  updates_endDeferral none false (updates_clearTrack (updates_setLlr _ (updates_setPmon _ (updates_setBpln _ h))))

theorem updates_recordResetProfiles (h : Updates s t) : Updates s t.recordResetProfiles :=
  updates_setPsto _ (fun _ _ => ProfileStore.reset_wf) h

theorem updates_resetEffect (scope : Nat) (h : Updates s t) : Updates s (resetEffect scope t) := by
  unfold resetEffect; split
  · exact updates_recordResetAll h
  · exact updates_abort _ _ h
  · exact updates_abort _ _ h
  · exact updates_resetTracking h
  · exact updates_recordResetProfiles h

/-- The effect of a record is made of elementary updates (Table 10.2). -/
theorem updates_recordEffect (kind target : Nat) (p : Params) (h : Updates s t) :
    Updates s (recordEffect kind target p t) := by
  unfold recordEffect; split
  · exact updates_inners h (inners_entries _ le_rfl (inners_refl t))
  · exact updates_changeSettings _ _ h
  · exact updates_recordOptics _ _ h
  · exact updates_recordLineMemory _ h
  · exact updates_track _ h
  · exact updates_setLlr _ (updates_setBpln _ h)
  · exact updates_recordProfileWindow _ h
  · exact updates_commitProfile h
  · exact h.tail (.acknowledge t _ _)
  · exact updates_recordMask _ h
  · exact updates_setRing _ h
  · exact updates_setWarb _ h
  · exact updates_inners h (inners_generate _ (inners_refl t))
  · exact updates_resetEffect _ h

theorem updates_rejectSlot (r : RejectReason) (h : Updates s t) : Updates s (t.rejectSlot r) :=
  updates_latchIf _ _ (updates_setCrec _ h)

theorem updates_examineSlot (slot : Slot) (h : Updates s t) : Updates s (t.examineSlot slot) := by
  unfold State.examineSlot; split
  · exact updates_rejectSlot _ h
  · exact updates_setCrec _ (updates_recordEffect _ _ _ h)

theorem updates_completeSlot (h : Updates s t) : Updates s t.completeSlot := updates_setWarb _ (updates_settle h)

theorem updates_examineSlots : ∀ (xs : List Slot) {t : State}, Updates s t → Updates s (examineSlots xs t)
  | [], _, h => h
  | [x], t, h => by
    unfold examineSlots; split
    · exact h
    · exact updates_examineSlot x h
  | x :: y :: xs, t, h => by
    unfold examineSlots; split
    · exact h
    · exact updates_examineSlots (y :: xs) (updates_completeSlot (updates_examineSlot x h))

/-! ### Offers -/

/-- Planning, frames and reports leave the response queue alone. -/
theorem Inner.responses (h : Inner s t) : t.pb.responses = s.pb.responses := by
  cases h with
  | free h => exact congrArg PortBridge.responses (h .pb (by decide))
  | create m k f =>
    exact congrArg PortBridge.responses (changes_createEntry m k f (State.changesOnly_refl _ _) .pb (by decide))
  | _ => rfl

theorem Inners.responses (h : Inners s t) : t.pb.responses = s.pb.responses :=
  h.keeps (P := fun u => u.pb.responses = s.pb.responses) (fun _ _ k hu => k.responses.trans hu) rfl

theorem updates_takeAlong (w : UpWrite) (r : Route) (hroom : t.pb.responses.length < 32) (h : Updates s t) :
    Updates s (t.takeAlong w r) := by
  cases r with
  | pass => exact updates_passHead _ hroom h
  | control => exact updates_examineSlots _ (updates_passHead _ hroom h)
  | profile base =>
    have hkept : (t.captureProfile base w).pb = t.pb :=
      changes_captureProfile (bs := [.psto, .evu]) base w (by decide) (by decide) (t.changesOnly_refl _) .pb (by decide)
    exact updates_passHead _ (by rwa [hkept]) (updates_captureProfile _ _ h)
  | offered c a =>
    have ho := inners_offer c a w (inners_refl t)
    have hroom' : (t.offer c a w).2.pb.responses.length < 32 := by rwa [ho.responses]
    replace ho := updates_inners h ho
    unfold State.takeAlong
    dsimp only
    split
    · rename_i s' e; rw [e] at ho hroom'; exact updates_interceptHead _ hroom' ho
    · rename_i s' e; rw [e] at ho hroom'; exact updates_passHead _ hroom' ho
    · rename_i s' e; rw [e] at ho hroom'; exact updates_traffic _ rfl (by simp) (by simp) ho

theorem State.responses_room (h : s.writeBlocked = false) : s.pb.responses.length < 32 := by
  simp only [State.writeBlocked, Bool.or_eq_false_iff, decide_eq_false_iff_not, not_le] at h
  exact h.1.1

theorem updates_offerHeadFor : ∀ (n : Nat) {t : State}, Updates s t → Updates s (Sys2Proof.Machine.offerHead n t)
  | 0, _, h => h
  | n + 1, t, h => by
    unfold Sys2Proof.Machine.offerHead; split
    · exact h
    · split
      · exact h
      · next hopen =>
        have htaken := fun w => updates_takeAlong w (t.route w) (State.responses_room (by simpa using hopen)) h
        dsimp only
        split
        · exact updates_offerHeadFor n (htaken _)
        · exact htaken _

theorem updates_offerHead (h : Updates s t) : Updates s t.offerHead := updates_offerHeadFor 4 h

theorem updates_reofferAfterIdle (h : Updates s t) : Updates s t.reofferAfterIdle := by
  unfold State.reofferAfterIdle; split
  · exact updates_offerHead h
  · exact h

theorem updates_takeRead (r : UpRead) (hroom : t.pb.holds.length < 8) (h : Updates s t) :
    Updates s (t.takeRead r) := by
  unfold State.takeRead
  dsimp only
  split
  · exact updates_traffic _ rfl (by simp) (by simp; omega) h
  · exact updates_inners h (inners_sendRead _ _ (inners_refl t))

/-! ### The lens line -/

theorem updates_insertSample (x : Sample) (hfresh : t.ptrk.staleAt x.t = false) (h : Updates s t) :
    Updates s (t.insertSample x) := updates_setPmon _ (h.tail (.insert t x hfresh))

theorem updates_advanceTimely (n : Nat) (h : Updates s t) : Updates s (t.advanceTimely n) :=
  updates_latchIf _ _ (updates_setPmon _ h)

theorem updates_emptyRun (h : Updates s t) : Updates s t.emptyRun := updates_setPmon _ h

theorem updates_offerInsertion (h : Updates s t) : Updates s t.offerInsertion :=
  updates_inners h (inners_offerInsertion (inners_refl t))

/-- A sample inserted into a track that was just cleared. -/
theorem updates_restartTrack (x : Sample) (h : Updates s t) :
    Updates s ((t.clearTrack.insertSample x).emptyRun) :=
  updates_emptyRun (updates_insertSample x rfl (updates_clearTrack h))

theorem updates_rehome (x : Sample) (h : Updates s t) : Updates s (t.rehome x) := by
  have h1 := updates_latch .posRehome (updates_restartTrack x h)
  unfold State.rehome
  dsimp only
  split
  · exact updates_advanceTimely _ h1
  · exact h1

theorem updates_judgeImplausible (x : Sample) (h : Updates s t) : Updates s (t.judgeImplausible x) := by
  have h1 : ∀ v, Updates s ((t.setPmon v).latch .posImplausible) := fun v => updates_latch _ (updates_setPmon v h)
  unfold State.judgeImplausible
  dsimp only
  split
  · exact updates_offerInsertion (updates_rehome _ (h1 _))
  · exact h1 _

theorem updates_acceptSample (x : Sample) (hfresh : t.ptrk.staleAt x.t = false) (h : Updates s t) :
    Updates s (t.acceptSample x) := by
  have h1 := updates_emptyRun (updates_insertSample x hfresh h)
  unfold State.acceptSample
  dsimp only
  split
  · exact updates_advanceTimely _ h1
  · exact h1

theorem updates_judgeHeld (x : Sample) (h : Updates s t) : Updates s (t.judgeHeld x) := by
  unfold State.judgeHeld
  split
  · exact updates_setPmon _ h
  · next hfresh =>
    split
    · exact updates_judgeImplausible x h
    · exact updates_offerInsertion (updates_acceptSample x (by simpa using hfresh) h)

theorem updates_judge (k : Candidate) (h : Updates s t) : Updates s (t.judge k) := by
  unfold State.judge
  dsimp only
  split
  · exact updates_latchIf _ _ (updates_setPmon _ (updates_setPmon _ h))
  · split
    · exact updates_offerInsertion (updates_advanceTimely _ (updates_restartTrack _ (updates_setPmon _ h)))
    · exact updates_judgeHeld _ (updates_setPmon _ h)

theorem updates_telegram (bytes : List Byte) (h : Updates s t) : Updates s (t.telegram bytes) := by
  unfold State.telegram
  split
  · exact updates_latchIf _ _ (updates_setLlr _ h)
  · split
    · exact updates_setLlr _ h
    · exact updates_judge _ (updates_setLlr _ h)

theorem updates_huntCharacter (b : Byte) (fe : Bool) (h : Updates s t) : Updates s (t.huntCharacter b fe) := by
  unfold State.huntCharacter; split
  · exact updates_setLlr _ h
  · exact h

theorem updates_character (b : Byte) (fe : Bool) (h : Updates s t) : Updates s (t.character b fe) := by
  unfold State.character
  split
  · exact updates_huntCharacter _ _ h
  · split
    · exact updates_huntCharacter _ _ (updates_setLlr _ h)
    · unfold State.assembleCharacter
      split
      · exact updates_setLlr _ h
      · split
        · exact updates_setLlr _ h
        · exact updates_telegram _ (updates_setLlr _ h)

/-! ### Runs, bursts and responses -/

theorem updates_presentReport (h : Updates s t) : Updates s t.presentReport :=
  updates_inners h (inners_presentReport (inners_refl t))

theorem updates_reports (v : ReportWriter) (hv : v.queue.length ≤ t.rpw.queue.length) (h : Updates s t) :
    Updates s (t.setRpw v) := updates_inners h (inners_reports v (le_max_of_le_right hv) (inners_refl t))

theorem inners_afterRow (c : Ctx) (h : Inners s t) : Inners s (t.afterRow c) := by
  unfold State.afterRow
  split
  · exact h
  · split
    · exact inners_drain _ h
    · split
      · exact inners_requestNext _ h
      · exact inners_mapFrame _ _ h

@[simp] theorem issuePass_length : ∀ l : List RespEntry, (issuePass l).length = l.length
  | [] => rfl
  | x :: l => by unfold issuePass; split <;> simp [issuePass_length l]

@[simp] theorem completePass_length (v : Resp) : ∀ l : List RespEntry, (completePass v l).length = l.length
  | [] => rfl
  | x :: l => by unfold completePass; split <;> simp [completePass_length v l]

theorem updates_endRun (b : RunBody) (h : Updates s t) : Updates s (t.endRun b) := by
  unfold State.endRun; split
  · exact updates_presentPass (updates_traffic _ rfl (by simp) (by simp) h)
  · exact updates_inners h (inners_afterRow _ (inners_mapFrame _ _ (inners_refl t)))
  · exact updates_inners h (inners_drain _ (inners_mapFrame _ _ (inners_refl t)))
  · exact updates_presentReport (updates_reports _ (by simp) h)

theorem updates_issueBurst (r : Requester) (run : Run) (b : BurstPlan) (rest : List BurstPlan) (h : Updates s t) :
    Updates s (t.issueBurst r run b rest) := by
  have h1 : Updates s ((t.emit (t.burstOutput r run.bursts.length b run.body)).setWarb (t.warb.issue r run rest)) :=
    updates_setWarb _ (updates_inners h (inners_emit _ (inners_refl t)))
  unfold State.issueBurst
  dsimp only
  split
  · exact updates_endRun _ h1
  · exact h1

theorem inners_countError (v : Resp) (h : Inners s t) : Inners s (t.countError v) := by
  unfold State.countError; split
  · exact inners_latch _ (inners_setWarb _ h)
  · exact h

theorem inners_retireRow (c : Ctx) (y : Nat) (h : Inners s t) : Inners s (t.retireRow c y) := by
  have h1 : ∀ f, Inners s ((t.mapFrame c f).retireInHolds c y) := fun f =>
    inners_retireInHolds _ _ (inners_mapFrame c f h)
  unfold State.retireRow
  dsimp only
  split
  · exact inners_drain _ (h1 _)
  · exact inners_finishIfComplete _ (h1 _)

theorem inners_rowResponse (c : Ctx) (b : IssuedBurst) (v : Resp) (h : Inners s t) :
    Inners s (t.rowResponse c b v) := by
  unfold State.rowResponse; split
  · exact inners_retireRow _ _ (inners_countError _ h)
  · exact inners_countError _ h

theorem updates_reportResponse (b : IssuedBurst) (v : Resp) (h : Updates s t) : Updates s (t.reportResponse b v) := by
  have h1 := updates_latchIf (isError v) .memoryError h
  unfold State.reportResponse
  dsimp only
  split
  · exact updates_presentReport (updates_reports _ (completeFirst_length_le _) h1)
  · exact h1

theorem updates_handResponse (b : IssuedBurst) (v : Resp) (r : Requester) (h : Updates s t) :
    Updates s (t.handResponse b v r) := by
  cases r with
  | pass => exact updates_popResponses (updates_traffic _ rfl (by simp) (by simp) h)
  | emit0 => exact updates_inners h (inners_rowResponse _ _ _ (inners_refl t))
  | emit1 => exact updates_inners h (inners_rowResponse _ _ _ (inners_refl t))
  | report => exact updates_reportResponse _ _ h

theorem updates_memoryResponse (tag : Nat) (v : Resp) (h : Updates s t) : Updates s (t.memoryResponse tag v) := by
  unfold State.memoryResponse; split
  · exact h
  · split
    · exact h
    · exact updates_settle (updates_reofferAfterIdle (updates_handResponse _ _ _ (updates_setWarb _ h)))

/-! ### Reads that come back -/

theorem updates_readBeatBack (tag : Nat) (d : BeatData) (v : Resp) (h : Updates s t) :
    Updates s (t.readBeatBack tag d v) := by
  unfold State.readBeatBack
  dsimp only
  split
  · exact updates_inners h (inners_emit _ (inners_reads _ _ le_rfl (inners_refl t)))
  · exact h

theorem updates_answerBeatBack (tag : Nat) (h : Updates s t) : Updates s (t.answerBeatBack tag) := by
  unfold State.answerBeatBack
  dsimp only
  split
  · exact h
  · exact updates_inners h (inners_releaseReads (inners_emit _ (inners_reads _ _ le_rfl (inners_refl t))))

/-! ### Records as commands -/

theorem updates_takeWith (f : State → State) (h : Updates s (f t)) : Updates s (t.takeWith f) := updates_setCrec _ h

theorem updates_takeSettled (f : State → State) (h : Updates s (f t)) : Updates s (t.takeSettled f) :=
  updates_settle (updates_takeWith f h)

theorem updates_recordRow (dt : Nat) (f : State → State) (h : Updates (s.begin dt) (f (s.begin dt))) :
    Updates (s.begin dt) (s.recordRow dt f) := by
  unfold State.recordRow; split
  · exact h
  · exact updates_refl _

theorem updates_rejectFailing (slot : Slot) (h : Updates s t) : Updates s (t.rejectFailing slot) := by
  unfold State.rejectFailing; split
  · exact updates_rejectSlot _ h
  · exact h

end Chains

/-! ### Every command outside start-up -/

/-- The commands of start-up (chapter 11): the header, an image record, the two resets and the release. -/
def startsUp : Instr → Bool
  | .resetAllTakesEffect _ | .pinResetAssert _ | .pinResetRelease _ | .imageHeader _ _ | .imageRecord _ _ => true
  | _ => false

/-- Every command outside start-up lets its time pass and is then a chain of elementary updates. -/
theorem exec_updates (c : Instr) (s : State) (hc : startsUp c = false) :
    ∃ t, exec c s = .next t ∧ Updates (s.begin c.dt) t := by
  have h0 := updates_refl (s.begin c.dt)
  cases c with
  | upstreamWrite dt w =>
    refine ⟨_, rfl, ?_⟩
    split
    · exact updates_settle (updates_offerHead (updates_traffic _ rfl (by simp) (by simp) h0))
    · exact h0
  | heldWriteReoffered dt => exact ⟨_, rfl, updates_settle (updates_offerHead h0)⟩
  | upstreamRead dt r =>
    refine ⟨_, rfl, ?_⟩
    split
    · next htakes =>
      simp only [State.takesReads, Bool.and_eq_true, decide_eq_true_eq] at htakes
      exact updates_takeRead r htakes.1.1 h0
    · exact h0
  | memoryReadData dt tag data resp =>
    refine ⟨_, rfl, ?_⟩
    split
    · exact updates_readBeatBack _ _ _ h0
    · exact h0
  | answerBeatReturned dt tag => exact ⟨_, rfl, updates_answerBeatBack tag h0⟩
  | lplCharacter dt b fe =>
    refine ⟨_, rfl, ?_⟩
    split
    · exact updates_settle (updates_character b fe h0)
    · exact h0
  | assemblyGapTimeout dt =>
    refine ⟨_, rfl, ?_⟩
    split
    · exact updates_setLlr _ h0
    · exact h0
  | timingWindowExpiry dt =>
    refine ⟨_, rfl, ?_⟩
    split
    · exact updates_settle (updates_expireWindow h0)
    · exact h0
  | deferralWaitOut dt =>
    refine ⟨_, rfl, ?_⟩
    split
    · exact updates_settle (updates_inners h0 (inners_waitOut (inners_refl _)))
    · exact h0
  | frameMark dt =>
    refine ⟨_, rfl, ?_⟩
    split
    · exact updates_settle (updates_inners h0 (inners_plan (inners_examineEntries (inners_createEntry _ _ _
        (inners_refl _)))))
    · exact h0
  | burstIssued dt =>
    refine ⟨_, rfl, ?_⟩
    split
    · exact h0
    · exact updates_settle (updates_issueBurst _ _ _ _ h0)
  | preemptionSuspend dt =>
    refine ⟨_, rfl, ?_⟩
    split
    · exact updates_settle (updates_setWarb _ h0)
    · exact h0
  | memoryWriteResponse dt tag resp => exact ⟨_, rfl, updates_memoryResponse tag resp h0⟩
  | stallTimeout dt c =>
    refine ⟨_, rfl, ?_⟩
    split
    · exact updates_settle (updates_reofferAfterIdle (updates_abort _ _ h0))
    · exact h0
  | attnGapEnd dt =>
    refine ⟨_, rfl, ?_⟩
    split
    · next hover => exact h0.tail (.drive _ (Bool.and_eq_true _ _ ▸ hover).1)
    · exact h0
  | shot dt p => exact ⟨_, rfl, updates_recordRow dt _ (updates_takeWith _ (updates_recordEffect 1 0 p h0))⟩
  | contextGeometry dt c p => exact ⟨_, rfl, updates_recordRow dt _ (updates_takeSettled _ (updates_changeSettings _ _ h0))⟩
  | contextOptics dt c p => exact ⟨_, rfl, updates_recordRow dt _ (updates_takeSettled _ (updates_recordOptics _ _ h0))⟩
  | lineMemory dt p => exact ⟨_, rfl, updates_recordRow dt _ (updates_takeWith _ (updates_recordLineMemory _ h0))⟩
  | tracking dt p => exact ⟨_, rfl, updates_recordRow dt _ (updates_takeSettled _ (updates_track _ h0))⟩
  | motion dt p => exact ⟨_, rfl, updates_recordRow dt _ (updates_takeWith _ (updates_recordEffect 6 0 p h0))⟩
  | profileWindow dt p => exact ⟨_, rfl, updates_recordRow dt _ (updates_takeWith _ (updates_recordProfileWindow _ h0))⟩
  | profileCommit dt => exact ⟨_, rfl, updates_recordRow dt _ (updates_takeWith _ (updates_commitProfile h0))⟩
  | eventAck dt p => exact ⟨_, rfl, updates_recordRow dt _ (updates_takeWith _ (updates_recordEffect 9 0 p h0))⟩
  | eventMask dt p => exact ⟨_, rfl, updates_recordRow dt _ (updates_takeWith _ (updates_recordMask _ h0))⟩
  | reportRing dt p => exact ⟨_, rfl, updates_recordRow dt _ (updates_takeWith _ (updates_setRing _ h0))⟩
  | arbiter dt p => exact ⟨_, rfl, updates_recordRow dt _ (updates_takeSettled _ (updates_recordEffect 12 0 p h0))⟩
  | statusRequest dt =>
    exact ⟨_, rfl, updates_recordRow dt _ (updates_takeSettled _ (updates_recordEffect 13 0 (paramsOf 0) h0))⟩
  | resetAll dt => exact ⟨_, rfl, updates_recordRow dt _ (updates_takeSettled _ (updates_recordResetAll h0))⟩
  | resetContext dt c => exact ⟨_, rfl, updates_recordRow dt _ (updates_takeSettled _ (updates_abort _ _ h0))⟩
  | resetTracking dt => exact ⟨_, rfl, updates_recordRow dt _ (updates_takeSettled _ (updates_resetTracking h0))⟩
  | resetProfiles dt => exact ⟨_, rfl, updates_recordRow dt _ (updates_takeWith _ (updates_recordResetProfiles h0))⟩
  | recordRejected dt slot => exact ⟨_, rfl, updates_recordRow dt _ (updates_rejectFailing _ h0)⟩
  | burstBegun dt =>
    refine ⟨_, rfl, ?_⟩
    split
    · exact h0
    · exact updates_setWarb _ h0
  | resetAllTakesEffect dt => cases hc
  | pinResetAssert dt => cases hc
  | pinResetRelease dt => cases hc
  | imageHeader dt d => cases hc
  | imageRecord dt d => cases hc

theorem updates_of_exec {c : Instr} {s t : State} (hc : startsUp c = false) (h : exec c s = .next t) :
    Updates (s.begin c.dt) t := by
  obtain ⟨u, hu, hup⟩ := exec_updates c s hc
  obtain rfl : u = t := by rw [hu] at h; injection h
  exact hup

/-! ### Start-up -/

/-- Past the change of the loader, the entry to READY is made of elementary updates (R188). -/
theorem updates_enterReady (s : State) : Updates (s.setStl s.stl.finish) s.enterReady :=
  updates_presentReport (updates_trans ((updates_latchIf s.stl.storeFault .storeFault (updates_refl _)).tail
    (.drive _ rfl)) (Inners.updates (inners_free (inners_refl _)
      (changes_setLineWait s.stl.lineRate.character (by decide) (State.changesOnly_refl _ _)))))

/-- An image record before the loader counts it (R187). -/
theorem updates_imageSlot (s : State) (count read : Nat) (d : BeatData) :
    Updates s ((s.examineSlot ⟨d, true⟩).setStl ((s.examineSlot ⟨d, true⟩).stl.readOne count read d)) :=
  (updates_examineSlot _ (updates_refl s)).tail (.loader _ _ rfl rfl)

/-! ### Invariants -/

/-- What is to be shown of an invariant: that it holds where every block but the ports and the queue has its value after
reset, and is kept by time passing, the queue moving on, every elementary update, and the loader setting the control
window's base and its own registers, with the part where it was or in READY. -/
structure Invariant (P : State → Prop) : Prop where
  queue : ∀ s q, P s → P (s.setPending q)
  time : ∀ s dt, P s → P (s.begin dt)
  elementary : ∀ s t, Elementary s t → P s → P t
  loader : ∀ s base (v : StoreLoader), v.part = s.stl.part ∨ v.part = .ready → P s →
    P ((s.setPb { s.pb with controlBase := base }).setStl v)
  reset : ∀ l ch o q,
    P ((((State.reset.setStl l).setPb { PortBridge.reset with channel := ch }).setOutputs o).setPending q)

namespace Invariant

variable {P : State → Prop} (hP : Invariant P)

include hP

theorem updates {s t : State} (h : Updates s t) (hs : P s) : P t := h.keeps hP.elementary hs

theorem enterReady {s : State} (hs : P s) : P s.enterReady :=
  hP.updates (updates_enterReady s) (hP.loader s s.pb.controlBase s.stl.finish (.inr rfl) hs)

theorem settle {s : State} (hs : P s) : P s.settle := hP.updates (updates_settle (updates_refl s)) hs

theorem goodHeader {s : State} (d : BeatData) (hs : P s) : P (s.goodHeader d) := by
  have h1 := fun v h => hP.loader s (headerBase d) v (.inl h) hs
  unfold State.goodHeader
  dsimp only
  split
  · exact hP.enterReady (h1 _ rfl)
  · exact h1 _ rfl

theorem badHeader {s : State} (hs : P s) : P s.badHeader :=
  hP.enterReady (hP.loader s 0xFFFFFFF000 _ (.inl rfl) hs)

theorem imageRecord {s : State} (count read : Nat) (d : BeatData) (hs : P s) : P (s.imageRecord count read d) := by
  have h1 := hP.updates (updates_imageSlot s count read d) hs
  unfold State.imageRecord
  dsimp only
  split
  · exact hP.enterReady h1
  · exact h1

/-- Every command keeps an invariant. -/
theorem exec {c : Instr} {s t : State} (h : exec c s = .next t) (hs : P s) : P t := by
  have hbegin := hP.time s c.dt hs
  by_cases hc : startsUp c = false
  · exact hP.updates (updates_of_exec hc h) hbegin
  · cases c with
    | resetAllTakesEffect dt =>
      injection h with h; subst h
      split
      · exact hP.reset StoreLoader.reset (s.begin dt).pb.channel [.spiRead 0x03 0] (s.begin dt).pending
      · exact hbegin
    | pinResetAssert dt => injection h with h; subst h; exact hP.reset StoreLoader.inReset [] [] s.pending
    | pinResetRelease dt =>
      injection h with h; subst h
      split
      · exact hP.reset StoreLoader.reset [] _ s.pending
      · exact hbegin
    | imageHeader dt d =>
      injection h with h; subst h
      split
      · split
        · exact hP.settle (hP.goodHeader d hbegin)
        · exact hP.settle (hP.badHeader hbegin)
      · exact hbegin
    | imageRecord dt d =>
      injection h with h; subst h
      split
      · exact hP.settle (hP.imageRecord _ _ d hbegin)
      · exact hbegin
    | _ => exact absurd rfl hc

/-- Every step keeps an invariant. -/
theorem step {s t : State} (h : step s = .next t) (hs : P s) : P t := by
  unfold Sys2Proof.Machine.step at h
  split at h
  · injection h with h; subst h; exact hP.time s 1 hs
  · exact hP.exec h (hP.queue s _ hs)

end Invariant

end Sys2Proof.Machine
end

section
/-! PROOFS. The invariants that every step keeps, checked on the elementary updates: canonical profile tables, the bounded
lists within their room, ATTN backed by an unmasked event, and the track in rising order. -/

namespace Sys2Proof.Machine

/-! ### The tables -/

theorem State.tablesWf_iff (s : State) :
    s.tablesWf = true ↔ s.psto.activeTable.wf = true ∧ s.psto.stagingTable.wf = true := by
  simp [State.tablesWf]

theorem State.tablesWf_congr {s t : State} (h : t.psto = s.psto) : t.tablesWf = s.tablesWf := by
  simp [State.tablesWf, h]

theorem Inner.keeps_tablesWf {s t : State} (h : Inner s t) (hs : s.tablesWf = true) : t.tablesWf = true := by
  cases h with
  | free h => rwa [State.tablesWf_congr (h .psto (by decide))]
  | latch e => exact hs
  | store p h =>
    obtain ⟨ha, hst⟩ := s.tablesWf_iff.mp hs
    exact (State.tablesWf_iff _).mpr (h ha hst)
  | entries m h => exact hs
  | create m k f =>
    have hkept : (s.createEntry m k f).psto = s.psto := by
      unfold State.createEntry State.makeRoom; split <;> rfl
    rwa [State.tablesWf_congr hkept]
  | reads rs hs' h => exact hs
  | reports v h => exact hs

theorem Elementary.keeps_tablesWf {s t : State} (h : Elementary s t) (hs : s.tablesWf = true) : t.tablesWf = true := by
  cases h with
  | inner h => exact h.keeps_tablesWf hs
  | _ => exact hs

theorem invariant_tablesWf : Invariant fun s => s.tablesWf = true where
  queue _ _ h := h
  time s dt h := by rwa [State.tablesWf_congr (s.begin_psto dt)]
  elementary _ _ h := h.keeps_tablesWf
  loader _ _ _ _ h := h
  reset _ _ _ _ := rfl

/-- Settles O5: the store is written by swaps, commits, captured beats, the coverage map and the emptied store only, and
each keeps canonical tables canonical. -/
theorem everyStepKeepsTheTablesCanonical : Obligations.EveryStepKeepsTheTablesCanonical :=
  fun _ _ hs h => invariant_tablesWf.step h hs

/-! ### The bounded lists -/

/-- A creation evicts where the table is full, so it leaves at most four entries, or as many as before (R60, R61). -/
theorem State.createEntry_length_le (s : State) (m : Time) (k : Bool) (f : Both Bool) :
    (s.createEntry m k f).mept.entries.length ≤ max 4 s.mept.entries.length := by
  have happend : (s.createEntry m k f).mept.entries.length = s.makeRoom.mept.entries.length + 1 := by
    simp [State.createEntry, State.appendEntry]
  rw [happend]
  unfold State.makeRoom
  split
  · omega
  · next hfull =>
    obtain ⟨_, hone, _⟩ := evict_spec s.mept.entries
    have hevict := hone (by rintro h; simp [h] at hfull)
    simp only [State.holdEntries, State.latch_mept, State.setBpln_mept, State.setMept_mept]
    omega

theorem State.withinRoom_congr {s t : State} (htrack : t.ptrk = s.ptrk) (htable : t.mept = s.mept) (hport : t.pb = s.pb)
    (hreports : t.rpw = s.rpw) (h : s.withinRoom) : t.withinRoom := by
  unfold State.withinRoom at h ⊢
  rwa [htrack, htable, hport, hreports]

theorem Inner.keeps_withinRoom {s t : State} (h : Inner s t) (hs : s.withinRoom) : t.withinRoom := by
  obtain ⟨htrack, htable, hresp, hholds, hreports⟩ := hs
  cases h with
  | free h =>
    exact State.withinRoom_congr (h .ptrk (by decide)) (h .mept (by decide)) (h .pb (by decide)) (h .rpw (by decide))
      ⟨htrack, htable, hresp, hholds, hreports⟩
  | latch e => exact ⟨htrack, htable, hresp, hholds, hreports⟩
  | store p h => exact ⟨htrack, htable, hresp, hholds, hreports⟩
  | entries m h => exact ⟨htrack, h.trans htable, hresp, hholds, hreports⟩
  | create m k f =>
    have hframe := changes_createEntry m k f (s.changesOnly_refl planBlocks)
    have hlength := s.createEntry_length_le m k f
    unfold State.withinRoom
    rw [hframe .ptrk (by decide), hframe .pb (by decide), hframe .rpw (by decide)]
    exact ⟨htrack, by omega, hresp, hholds, hreports⟩
  | reads rs hs' h => exact ⟨htrack, htable, hresp, h.trans hholds, hreports⟩
  | reports v h => exact ⟨htrack, htable, hresp, hholds, h.trans (by omega)⟩

theorem Elementary.keeps_withinRoom {s t : State} (h : Elementary s t) (hs : s.withinRoom) : t.withinRoom := by
  cases h with
  | inner h => exact h.keeps_withinRoom hs
  | clear =>
    obtain ⟨_, hrest⟩ := hs
    exact ⟨Nat.zero_le _, hrest⟩
  | insert x h =>
    obtain ⟨htrack, hrest⟩ := hs
    exact ⟨by simp [Track.insert]; omega, hrest⟩
  | traffic v hbase hr hh =>
    obtain ⟨htrack, htable, hresp, hholds, hreports⟩ := hs
    exact ⟨htrack, htable, hr.trans (by omega), hh.trans (by omega), hreports⟩
  | _ => exact hs

theorem invariant_withinRoom : Invariant State.withinRoom where
  queue _ _ h := h
  time s dt h :=
    State.withinRoom_congr (s.begin_ptrk dt) (s.begin_mept dt) (s.begin_pb dt) (s.begin_rpw dt) h
  elementary _ _ h := h.keeps_withinRoom
  loader _ _ _ _ h := h
  reset _ _ _ _ := ⟨Nat.zero_le _, Nat.zero_le _, Nat.zero_le _, Nat.zero_le _, Nat.zero_le _⟩

/-- Settles O6: each of the five lists grows only where its rule finds room, or drops its oldest member first. -/
theorem everyStepKeepsTheListsWithinRoom : Obligations.EveryStepKeepsTheListsWithinRoom :=
  fun _ _ hs h => invariant_withinRoom.step h hs

/-! ### The attention line -/

/-- While the line is asserted the unit latches an unmasked event, and the line is released unless `ready` (R173). -/
def EventUnit.backed (u : EventUnit) (ready : Bool) : Prop :=
  (u.line = .asserted → u.set &&& u.mask ≠ 0) ∧ (ready = false → u.line = .released)

theorem State.attnBacked_iff (s : State) : s.attnBacked ↔ s.evu.backed s.isReady := by
  simp [State.attnBacked, EventUnit.backed, State.isReady]

/-- A member that the set shares with the mask stays shared in a larger set. -/
theorem and_ne_zero_of_or {a b m : BitVec 19} (h : a &&& m ≠ 0) : (a ||| b) &&& m ≠ 0 := by
  intro hz
  apply h
  have hor : a &&& m ||| b &&& m = 0 := by rw [← hz]; ext i; simp [Bool.and_or_distrib_right]
  exact (BitVec.or_eq_zero_iff.mp hor).1

@[simp] theorem EventUnit.latch_mask (u : EventUnit) (ready : Bool) (e : Event) : (u.latch ready e).mask = u.mask := by
  unfold EventUnit.latch; dsimp only; split
  · split <;> rfl
  · rfl
  · rfl

/-- A latch asserts a released line in READY where the set and the mask come to share a member, and else leaves it
(R173). -/
theorem EventUnit.latch_line (u : EventUnit) (ready : Bool) (e : Event) :
    (u.latch ready e).line =
      if u.line = .released ∧ ready = true ∧ (u.set ||| e.bit) &&& u.mask ≠ 0 then .asserted else u.line := by
  cases hline : u.line with
  | released =>
    simp only [EventUnit.latch, hline, EventUnit.shares, Bool.and_eq_true, decide_eq_true_eq, true_and]
    split <;> simp_all
  | asserted => simp [EventUnit.latch, hline]
  | gap t => simp [EventUnit.latch, hline]

theorem EventUnit.backed_latch {u : EventUnit} {ready : Bool} (e : Event) (h : u.backed ready) :
    (u.latch ready e).backed ready := by
  obtain ⟨hshare, hout⟩ := h
  unfold EventUnit.backed
  rw [EventUnit.latch_line, EventUnit.latch_set, EventUnit.latch_mask]
  split
  · next hgo =>
    obtain ⟨_, hready, hnew⟩ := hgo
    exact ⟨fun _ => hnew, fun hr => by simp [hr] at hready⟩
  · exact ⟨fun ha => and_ne_zero_of_or (hshare ha), hout⟩

theorem EventUnit.backed_acknowledge {u : EventUnit} {ready : Bool} (now : Time) (named : BitVec 19)
    (h : u.backed ready) : (u.acknowledge now named).backed ready := by
  obtain ⟨_, hout⟩ := h
  unfold EventUnit.backed
  rw [EventUnit.acknowledge_line]
  refine ⟨fun ha => ?_, fun hr => by simp [hout hr]⟩
  split at ha
  · split at ha <;> cases ha
  · contradiction

@[simp] theorem EventUnit.remask_set (u : EventUnit) (ready : Bool) (mask : BitVec 19) :
    (u.remask ready mask).set = u.set := by
  unfold EventUnit.remask; dsimp only; split
  · split <;> rfl
  · split <;> rfl
  · rfl

@[simp] theorem EventUnit.remask_mask (u : EventUnit) (ready : Bool) (mask : BitVec 19) :
    (u.remask ready mask).mask = mask := by
  unfold EventUnit.remask; dsimp only; split
  · split <;> rfl
  · split <;> rfl
  · rfl

/-- A new mask asserts a released line in READY where the set shares a member with it, releases an asserted one where it
shares none, and leaves a gap (R173). -/
theorem EventUnit.remask_line (u : EventUnit) (ready : Bool) (mask : BitVec 19) :
    (u.remask ready mask).line =
      match u.line with
      | .released => if ready = true ∧ u.set &&& mask ≠ 0 then .asserted else .released
      | .asserted => if u.set &&& mask ≠ 0 then .asserted else .released
      | .gap t => .gap t := by
  cases hline : u.line with
  | released =>
    simp only [EventUnit.remask, hline, EventUnit.shares, Bool.and_eq_true, decide_eq_true_eq]
    split <;> simp
  | asserted =>
    simp only [EventUnit.remask, hline, EventUnit.shares, decide_eq_true_eq]
    split <;> simp
  | gap t => simp [EventUnit.remask, hline]

theorem EventUnit.backed_remask {u : EventUnit} {ready : Bool} (mask : BitVec 19) (h : u.backed ready) :
    (u.remask ready mask).backed ready := by
  obtain ⟨_, hout⟩ := h
  unfold EventUnit.backed
  rw [EventUnit.remask_set, EventUnit.remask_mask, EventUnit.remask_line]
  cases hline : u.line with
  | released => simp +contextual
  | asserted => simp [hline] at hout; simp +contextual [hout]
  | gap t => simp [hline] at hout ⊢; exact hout

/-- The line as the set and the mask call for is backed (R173 (3), R188). -/
theorem EventUnit.backed_drive (u : EventUnit) : u.drive.backed true := by
  refine ⟨fun ha => ?_, fun hr => by simp at hr⟩
  by_cases hs : u.shares = true
  · exact of_decide_eq_true hs
  · simp [EventUnit.drive, hs] at ha

theorem State.attnBacked_congr {s t : State} (hevu : t.evu = s.evu) (hstl : t.stl.part = s.stl.part)
    (h : s.attnBacked) : t.attnBacked := by
  unfold State.attnBacked at h ⊢
  rwa [hevu, hstl]

theorem State.attnBacked_latch {s : State} (e : Event) (h : s.attnBacked) : (s.latch e).attnBacked :=
  (State.attnBacked_iff _).mpr (EventUnit.backed_latch e ((State.attnBacked_iff s).mp h))

theorem Inner.keeps_attnBacked {s t : State} (h : Inner s t) (hs : s.attnBacked) : t.attnBacked := by
  cases h with
  | free h => exact State.attnBacked_congr (h .evu (by decide)) (congrArg StoreLoader.part (h .stl (by decide))) hs
  | latch e => exact State.attnBacked_latch e hs
  | create m k f =>
    have hroom : s.makeRoom.attnBacked := by
      unfold State.makeRoom; split
      · exact hs
      · exact State.attnBacked_latch (s := s.holdEntries (evict s.mept.entries)) .markOverrun hs
    exact hroom
  | _ => exact hs

theorem Elementary.keeps_attnBacked {s t : State} (h : Elementary s t) (hs : s.attnBacked) : t.attnBacked := by
  have hback := (State.attnBacked_iff s).mp hs
  cases h with
  | inner h => exact h.keeps_attnBacked hs
  | acknowledge now named => exact (State.attnBacked_iff _).mpr (EventUnit.backed_acknowledge now named hback)
  | remask mask => exact (State.attnBacked_iff _).mpr (EventUnit.backed_remask mask hback)
  | drive h =>
    refine (State.attnBacked_iff _).mpr ?_
    rw [show (s.setEvu s.evu.drive).isReady = true from h]
    exact EventUnit.backed_drive _
  | loader v hpart hrate => exact State.attnBacked_congr (s := s) rfl hpart hs
  | _ => exact hs

theorem invariant_attnBacked : Invariant State.attnBacked where
  queue _ _ h := h
  time s dt h := State.attnBacked_congr (s.begin_evu dt) (congrArg StoreLoader.part (s.begin_stl dt)) h
  elementary _ _ h := h.keeps_attnBacked
  loader s base v hpart h := by
    obtain ⟨hshare, hout⟩ := h
    refine ⟨hshare, fun hne => ?_⟩
    rcases hpart with hpart | hpart
    · exact hout (hpart ▸ hne)
    · exact absurd hpart hne
  reset _ _ _ _ := ⟨(fun h => nomatch h), fun _ => rfl⟩

/-- Settles O7: the line is asserted by a latch, a new mask or the line following the set and the mask, each in READY and
each with an unmasked event latched; an acknowledge and a new mask release it, and the part leaves READY at a reset only. -/
theorem everyStepKeepsAttnBacked : Obligations.EveryStepKeepsAttnBacked :=
  fun _ _ hs h => invariant_attnBacked.step h hs

/-! ### The position track -/

theorem risingTimes_tail {a : Sample} : ∀ {l : List Sample}, risingTimes (a :: l) = true → risingTimes l = true
  | [], _ => rfl
  | _ :: _, h => ((Bool.and_eq_true _ _).mp h).2

theorem risingTimes_drop (n : Nat) : ∀ {l : List Sample}, risingTimes l = true → risingTimes (l.drop n) = true := by
  induction n with
  | zero => exact fun h => h
  | succ n ih =>
    intro l h
    cases l with
    | nil => rfl
    | cons a l => exact ih (risingTimes_tail h)

/-- A sample later than the newest one keeps the order when it is appended (R41). -/
theorem risingTimes_append {x : Sample} : ∀ {l : List Sample}, risingTimes l = true →
    (∀ n, l.getLast? = some n → later x.t n.t = true) → risingTimes (l ++ [x]) = true
  | [], _, _ => rfl
  | [a], _, hx => by simp [risingTimes, hx a rfl]
  | a :: b :: l, h, hx => by
    obtain ⟨hab, hrest⟩ := (Bool.and_eq_true _ _).mp h
    have ih := risingTimes_append (l := b :: l) hrest fun n hn => hx n (by rwa [List.getLast?_cons_cons])
    exact (Bool.and_eq_true _ _).mpr ⟨hab, ih⟩

/-- An insertion of a sample that is not stale keeps the track rising (R30, R41). -/
theorem Track.insert_rises {t : Track} {x : Sample} (hfresh : t.staleAt x.t = false)
    (h : risingTimes t.samples = true) : risingTimes (t.insert x).samples = true := by
  refine risingTimes_append (risingTimes_drop _ h) fun n hn => ?_
  have hnewest : t.newest = some n := by
    rw [List.getLast?_drop] at hn
    split at hn
    · cases hn
    · exact hn
  simpa [Track.staleAt, hnewest] using hfresh

theorem State.trackRises_congr {s t : State} (h : t.ptrk = s.ptrk) : t.trackRises = s.trackRises := by
  simp [State.trackRises, h]

theorem Inner.ptrk {s t : State} (h : Inner s t) : t.ptrk = s.ptrk := by
  cases h with
  | free h => exact h .ptrk (by decide)
  | create m k f => exact changes_createEntry m k f (s.changesOnly_refl _) .ptrk (by decide)
  | _ => rfl

theorem Elementary.keeps_trackRises {s t : State} (h : Elementary s t) (hs : s.trackRises = true) :
    t.trackRises = true := by
  cases h with
  | inner h => rwa [State.trackRises_congr h.ptrk]
  | clear => rfl
  | insert x h => exact Track.insert_rises h hs
  | _ => exact hs

theorem invariant_trackRises : Invariant fun s => s.trackRises = true where
  queue _ _ h := h
  time s dt h := by rwa [State.trackRises_congr (s.begin_ptrk dt)]
  elementary _ _ h := h.keeps_trackRises
  loader _ _ _ _ h := h
  reset _ _ _ _ := rfl

/-- Settles O8: the track changes by an insertion, whose sample is not stale, and by being cleared. -/
theorem everyStepKeepsTheTrackRising : Obligations.EveryStepKeepsTheTrackRising :=
  fun _ _ hs h => invariant_trackRises.step h hs

/-- Settles O4: at reset the tables and the lists are empty and the line is released. -/
theorem invariantsHoldAtReset : Obligations.InvariantsHoldAtReset :=
  ⟨rfl, by unfold State.withinRoom; decide, by unfold State.attnBacked; decide, rfl⟩

end Sys2Proof.Machine
end

section
/-! PROOFS. What no command changes: the queue, and but for start-up the time its own microseconds do not account for, the
control window's base, the line rate and the part's state; and what the entry to READY leaves (R188). -/

namespace Sys2Proof.Machine

/-! ### What elementary updates leave alone -/

theorem Inner.fixed {s t : State} (h : Inner s t) :
    t.time = s.time ∧ t.pending = s.pending ∧ t.stl = s.stl ∧ t.pb.controlBase = s.pb.controlBase := by
  cases h with
  | free h =>
    exact ⟨h .time (by decide), h .pending (by decide), h .stl (by decide),
      congrArg PortBridge.controlBase (h .pb (by decide))⟩
  | create m k f =>
    have hframe := changes_createEntry m k f (s.changesOnly_refl planBlocks)
    exact ⟨hframe .time (by decide), hframe .pending (by decide), hframe .stl (by decide),
      congrArg PortBridge.controlBase (hframe .pb (by decide))⟩
  | _ => exact ⟨rfl, rfl, rfl, rfl⟩

theorem Elementary.fixed {s t : State} (h : Elementary s t) :
    t.time = s.time ∧ t.pending = s.pending ∧ t.stl.part = s.stl.part ∧ t.stl.lineRate = s.stl.lineRate ∧
      t.pb.controlBase = s.pb.controlBase := by
  cases h with
  | inner h =>
    obtain ⟨htime, hqueue, hstl, hbase⟩ := h.fixed
    exact ⟨htime, hqueue, congrArg StoreLoader.part hstl, congrArg StoreLoader.lineRate hstl, hbase⟩
  | traffic v hbase hresp hholds => exact ⟨rfl, rfl, rfl, rfl, hbase⟩
  | loader v hpart hrate => exact ⟨rfl, rfl, hpart, hrate, rfl⟩
  | _ => exact ⟨rfl, rfl, rfl, rfl, rfl⟩

section Chains

variable {s t : State}

theorem Updates.time (h : Updates s t) : t.time = s.time :=
  h.keeps (P := fun u => u.time = s.time) (fun _ _ k hu => k.fixed.1.trans hu) rfl

theorem Updates.pending (h : Updates s t) : t.pending = s.pending :=
  h.keeps (P := fun u => u.pending = s.pending) (fun _ _ k hu => k.fixed.2.1.trans hu) rfl

theorem Updates.part (h : Updates s t) : t.stl.part = s.stl.part :=
  h.keeps (P := fun u => u.stl.part = s.stl.part) (fun _ _ k hu => k.fixed.2.2.1.trans hu) rfl

theorem Updates.lineRate (h : Updates s t) : t.stl.lineRate = s.stl.lineRate :=
  h.keeps (P := fun u => u.stl.lineRate = s.stl.lineRate) (fun _ _ k hu => k.fixed.2.2.2.1.trans hu) rfl

theorem Updates.controlBase (h : Updates s t) : t.pb.controlBase = s.pb.controlBase :=
  h.keeps (P := fun u => u.pb.controlBase = s.pb.controlBase) (fun _ _ k hu => k.fixed.2.2.2.2.trans hu) rfl

end Chains

/-! ### The image commands -/

theorem exec_imageHeader (dt : Nat) (d : BeatData) (s : State) : exec (.imageHeader dt d) s = execImageHeader dt d s := rfl
theorem exec_imageRecord (dt : Nat) (d : BeatData) (s : State) : exec (.imageRecord dt d) s = execImageRecord dt d s := rfl

/-- What the image commands change: everything but the time and the queue. -/
def imageBlocks : List Block := .line :: workBlocks

theorem changes_image {s t u : State} {bs : List Block} (h : s.changesOnly t imageBlocks) (k : t.changesOnly u bs)
    (hb : ∀ b ∈ bs, b ∈ imageBlocks := by decide) : s.changesOnly u imageBlocks :=
  State.changesOnly_trans h (State.changesOnly_mono k hb)

section Image

variable {s t : State}

theorem changes_entering (h : s.changesOnly t imageBlocks) : s.changesOnly t.enterReady imageBlocks :=
  changes_enterReady (by decide) (by decide) (by decide) (by decide) (by decide) h

theorem changes_goodHeader (d : BeatData) (h : s.changesOnly t imageBlocks) :
    s.changesOnly (t.goodHeader d) imageBlocks := by
  have h1 := fun b v => changes_setStl (bs := imageBlocks) v (by decide) (changes_setPb b (by decide) h)
  unfold State.goodHeader
  dsimp only
  split
  · exact changes_entering (h1 _ _)
  · exact h1 _ _

theorem changes_badHeader (h : s.changesOnly t imageBlocks) : s.changesOnly t.badHeader imageBlocks :=
  changes_entering (changes_setStl _ (by decide) (changes_setPb _ (by decide) h))

theorem changes_imageRecord (count read : Nat) (d : BeatData) (h : s.changesOnly t imageBlocks) :
    s.changesOnly (t.imageRecord count read d) imageBlocks := by
  have h1 := fun v => changes_setStl (bs := imageBlocks) v (by decide)
    (changes_image h (changes_examineSlot ⟨d, true⟩ (t.changesOnly_refl _)))
  unfold State.imageRecord
  dsimp only
  split
  · exact changes_entering (h1 _)
  · exact h1 _

theorem changes_settling (h : s.changesOnly t imageBlocks) : s.changesOnly t.settle imageBlocks :=
  changes_settle (by decide) (by decide) (by decide) h

theorem changes_execImageHeader {dt : Nat} {d : BeatData} (h : exec (.imageHeader dt d) s = .next t) :
    (s.begin dt).changesOnly t imageBlocks := by
  have h0 := (s.begin dt).changesOnly_refl imageBlocks
  injection h with h; subst h
  split
  · split
    · exact changes_settling (changes_goodHeader d h0)
    · exact changes_settling (changes_badHeader h0)
  · exact h0

theorem changes_execImageRecord {dt : Nat} {d : BeatData} (h : exec (.imageRecord dt d) s = .next t) :
    (s.begin dt).changesOnly t imageBlocks := by
  have h0 := (s.begin dt).changesOnly_refl imageBlocks
  injection h with h; subst h
  split
  · exact changes_settling (changes_imageRecord _ _ d h0)
  · exact h0

end Image

/-! ### The queue and the time -/

theorem exec_resetAllTakesEffect (dt : Nat) (s : State) :
    exec (.resetAllTakesEffect dt) s = .next (if (s.begin dt).closed then (s.begin dt).reload else s.begin dt) := rfl

theorem exec_pinResetAssert (dt : Nat) (s : State) :
    exec (.pinResetAssert dt) s =
      .next (((State.reset.setStl StoreLoader.inReset).setOutputs []).setPending s.pending) := rfl

theorem exec_pinResetRelease (dt : Nat) (s : State) :
    exec (.pinResetRelease dt) s =
      .next (if s.stl.part = .inReset then State.reset.setPending s.pending else s.begin dt) := rfl

/-- Settles O2: outside start-up by the elementary updates, none of which touches the queue or the counter. -/
theorem commandsLeaveTheQueueAndPassTime : Obligations.CommandsLeaveTheQueueAndPassTime := by
  intro c s t h
  rw [← State.begin_time, ← State.begin_pending s c.dt]
  by_cases hc : startsUp c = false
  · have hup := updates_of_exec hc h
    exact ⟨hup.pending, fun _ _ _ => hup.time⟩
  · cases c with
    | resetAllTakesEffect dt =>
      refine ⟨?_, fun _ _ hne => absurd rfl (hne dt)⟩
      rw [exec_resetAllTakesEffect] at h
      injection h with h; subst h
      split <;> rfl
    | pinResetAssert dt =>
      refine ⟨?_, fun hne _ _ => absurd rfl (hne dt)⟩
      rw [exec_pinResetAssert] at h
      injection h with h; subst h
      exact (s.begin_pending _).symm
    | pinResetRelease dt =>
      refine ⟨?_, fun _ hne _ => absurd rfl (hne dt)⟩
      rw [exec_pinResetRelease] at h
      injection h with h; subst h
      split
      · exact (s.begin_pending _).symm
      · rfl
    | imageHeader dt d =>
      have hframe := changes_execImageHeader h
      exact ⟨hframe .pending (by decide), fun _ _ _ => hframe .time (by decide)⟩
    | imageRecord dt d =>
      have hframe := changes_execImageRecord h
      exact ⟨hframe .pending (by decide), fun _ _ _ => hframe .time (by decide)⟩
    | _ => exact absurd rfl hc

/-- Settles O1: on an empty queue the block idles, which lets one microsecond pass (log 1). -/
theorem stepRunsFrontCommandOrIdles : Obligations.StepRunsFrontCommandOrIdles := by
  refine ⟨fun c rest s h => by rw [step, h], fun s h => ⟨s.idle, by rw [step, h], ?_, ?_, rfl, changes_begin 1⟩⟩
  · exact s.begin_time 1
  · exact s.begin_lineWait 1

/-! ### The entry to READY (R188) -/

theorem changes_present (s : State) : s.changesOnly s.presentReport [.rpw, .warb] :=
  changes_presentReport (by decide) (by decide) (s.changesOnly_refl _)

/-- The loader's registers, the line and the wait that the entry to READY leaves (R188). -/
theorem State.enterReady_facts (s : State) :
    s.enterReady.stl = s.stl.finish ∧ s.enterReady.lineWait = s.stl.lineRate.character ∧
      s.enterReady.evu = (if s.stl.storeFault then s.evu.latch true .storeFault else s.evu).drive :=
  ⟨changes_present _ .stl (by decide), changes_present _ .line (by decide), changes_present _ .evu (by decide)⟩

@[simp] theorem State.settle_stl (s : State) : s.settle.stl = s.stl := s.changesOnly_settle .stl (by decide)
@[simp] theorem State.settle_pb (s : State) : s.settle.pb = s.pb := s.changesOnly_settle .pb (by decide)
@[simp] theorem State.settle_lineWait (s : State) : s.settle.lineWait = s.lineWait :=
  s.changesOnly_settle .line (by decide)

/-- Settles O9: the elementary updates keep both; an image record is made of them but for the entry to READY, which keeps
both. -/
theorem onlyHeaderAndResetsSetWindowAndRate : Obligations.OnlyHeaderAndResetsSetWindowAndRate := by
  intro c s t h hheader hassert hrelease hreload
  rw [← s.begin_pb c.dt, ← s.begin_stl c.dt]
  by_cases hc : startsUp c = false
  · have hup := updates_of_exec hc h
    exact ⟨hup.controlBase, hup.lineRate⟩
  · cases c with
    | imageRecord dt d =>
      rw [exec_imageRecord, execImageRecord] at h
      injection h with h; subst h
      split
      · next count read _ =>
        have hup := updates_imageSlot (s.begin dt) count read d
        rw [State.settle_pb, State.settle_stl]
        unfold State.imageRecord
        dsimp only
        split
        · obtain ⟨hstl, _, _⟩ := State.enterReady_facts
            (((s.begin dt).examineSlot ⟨d, true⟩).setStl (((s.begin dt).examineSlot ⟨d, true⟩).stl.readOne count read d))
          rw [hstl]
          exact ⟨(updates_enterReady _).controlBase.trans hup.controlBase, hup.lineRate⟩
        · exact ⟨hup.controlBase, hup.lineRate⟩
      · exact ⟨rfl, rfl⟩
    | imageHeader dt d => exact absurd rfl (hheader dt d)
    | pinResetAssert dt => exact absurd rfl (hassert dt)
    | pinResetRelease dt => exact absurd rfl (hrelease dt)
    | resetAllTakesEffect dt => exact absurd rfl (hreload dt)
    | _ => exact absurd rfl hc

/-- What R188 asks of a state at its entry to READY. -/
def State.entered (t : State) : Prop :=
  t.evu.line = (if t.evu.set &&& t.evu.mask ≠ 0 then .asserted else .released) ∧
    (t.stl.storeFault = true → t.evu.set.getLsbD 18 = true) ∧ t.stl.image = none ∧ t.stl.spiSelect = false ∧
    t.lineWait = t.stl.lineRate.character

/-- Latching an event sets its bit. -/
theorem EventUnit.latch_getLsbD (u : EventUnit) (ready : Bool) (e : Event) :
    (u.latch ready e).set.getLsbD e.pos = true := by
  rw [EventUnit.latch_set]
  cases e <;> simp [Event.bit, Event.pos]

theorem State.enterReady_entered (s : State) : s.enterReady.settle.entered := by
  obtain ⟨hstl, hwait, hevu⟩ := s.enterReady_facts
  unfold State.entered
  rw [State.settle_evu, State.settle_stl, State.settle_lineWait, hstl, hwait, hevu]
  refine ⟨?_, fun hfault => ?_, rfl, rfl, rfl⟩
  · simp [EventUnit.drive, EventUnit.shares]
  · rw [if_pos (show s.stl.storeFault = true from hfault)]
    exact EventUnit.latch_getLsbD _ _ _

/-- The port bridge and the loader as a good header sets them (R186). -/
def State.setHeader (s : State) (d : BeatData) : State :=
  (s.setPb { s.pb with controlBase := headerBase d }).setStl
    { s.stl with lineRate := rateOf (headerRate d), image := some (.records (headerCount d) 0) }

theorem State.goodHeader_of_empty {s : State} {d : BeatData} (h : headerCount d = 0) :
    s.goodHeader d = (s.setHeader d).enterReady := if_pos h

theorem State.goodHeader_of_records {s : State} {d : BeatData} (h : headerCount d ≠ 0) :
    s.goodHeader d = s.setHeader d := if_neg h

/-- The port bridge and the loader as a bad header leaves them (R186). -/
def State.failHeader (s : State) : State :=
  (s.setPb { s.pb with controlBase := 0xFFFFFFF000 }).setStl { s.stl with lineRate := .baud1M, storeFault := true }

theorem State.badHeader_eq (s : State) : s.badHeader = s.failHeader.enterReady := by
  unfold State.badHeader State.failHeader; rfl

/-- A header leaves the part where it was, or enters READY (R185). -/
theorem State.header_entered {s : State} (d : BeatData) (hpart : s.stl.part ≠ .ready) :
    ((s.goodHeader d).settle.stl.part = .ready → (s.goodHeader d).settle.entered) ∧ s.badHeader.settle.entered := by
  refine ⟨fun hready => ?_, by rw [State.badHeader_eq]; exact State.enterReady_entered _⟩
  by_cases hzero : headerCount d = 0
  · rw [State.goodHeader_of_empty hzero]; exact State.enterReady_entered _
  · rw [State.goodHeader_of_records hzero, State.settle_stl, State.setHeader, State.setStl_stl] at hready
    exact absurd hready hpart

/-- An image record leaves the part where it was, or enters READY (R187). -/
theorem State.imageRecord_entered {s : State} (count read : Nat) (d : BeatData) (hpart : s.stl.part ≠ .ready)
    (hready : (s.imageRecord count read d).settle.stl.part = .ready) : (s.imageRecord count read d).settle.entered := by
  unfold State.imageRecord at hready ⊢
  dsimp only at hready ⊢
  split at hready
  · next hends => rw [if_pos hends]; exact State.enterReady_entered _
  · rw [State.settle_stl, (updates_imageSlot s count read d).part] at hready
    exact absurd hready hpart

/-- Settles O10: only a header and an image record bring the part to READY, and both by `State.enterReady`. -/
theorem entryToReadyDrivesAttn : Obligations.EntryToReadyDrivesAttn := by
  intro c s t h hs ht
  suffices hent : t.entered by
    obtain ⟨hline, hfault, himage, hselect, hwait⟩ := hent
    exact ⟨hline, hfault, himage, hselect, by rw [hwait]; cases t.stl.lineRate <;> rfl⟩
  have hbegin : (s.begin c.dt).stl.part ≠ .ready := by rwa [State.begin_stl]
  by_cases hc : startsUp c = false
  · exact absurd ((updates_of_exec hc h).part.symm.trans ht) hbegin
  · cases c with
    | resetAllTakesEffect dt =>
      rw [exec_resetAllTakesEffect] at h
      injection h with h; subst h
      split at ht
      · cases ht
      · exact absurd ht hbegin
    | pinResetAssert dt =>
      rw [exec_pinResetAssert] at h
      injection h with h; subst h
      cases ht
    | pinResetRelease dt =>
      rw [exec_pinResetRelease] at h
      injection h with h; subst h
      split at ht
      · cases ht
      · exact absurd ht hbegin
    | imageHeader dt d =>
      rw [exec_imageHeader, execImageHeader] at h
      injection h with h; subst h
      obtain ⟨hgood, hbad⟩ := State.header_entered d hbegin
      split at ht
      · next hawaits =>
        rw [if_pos hawaits]
        split at ht
        · next hd => rw [if_pos hd]; exact hgood ht
        · next hd => rw [if_neg hd]; exact hbad
      · exact absurd ht hbegin
    | imageRecord dt d =>
      rw [exec_imageRecord, execImageRecord] at h
      injection h with h; subst h
      split at ht
      · exact State.imageRecord_entered _ _ d hbegin ht
      · exact absurd ht hbegin
    | _ => exact absurd rfl hc

/-- Settles O3: block by block, by the definitions of the values after reset. -/
theorem resetLeavesTheChaptersValues : Obligations.ResetLeavesTheChaptersValues := by
  unfold Obligations.ResetLeavesTheChaptersValues
  refine ⟨rfl, rfl, rfl, rfl, rfl, rfl, rfl, rfl, rfl, rfl, rfl, rfl, rfl, rfl, rfl, rfl, rfl, rfl, rfl, rfl, rfl, rfl,
    rfl, fun _ => rfl, fun _ => rfl, rfl, rfl, rfl, rfl, rfl, rfl, rfl, rfl, rfl, rfl, fun c => ?_, rfl, rfl, rfl, rfl,
    rfl, rfl, rfl, rfl, rfl, rfl, rfl⟩
  cases c <;> exact ⟨rfl, rfl, rfl, rfl, rfl, rfl, rfl⟩

end Sys2Proof.Machine
end

section
/-! PROOFS. Operands and plain records (Tables 8.1, 10.1 and 10.2): where the fields of a record stand and how they are
clamped, and the records that write their fields into one block: SHOT, TRACKING, MOTION, PROFILE_WINDOW, EVENT_MASK and
REPORT_RING. -/

namespace Sys2Proof.Machine

/-! ### Fields and clamps (section 4.3, Table 10.1) -/

theorem clampNat_eq {lo hi : Nat} (x : Nat) (h : lo ≤ hi) : clampNat lo hi x = max lo (min hi x) := by
  unfold clampNat; split
  · omega
  · split <;> omega

theorem clampNat_zero (hi x : Nat) : clampNat 0 hi x = min hi x := by
  rw [clampNat_eq x (Nat.zero_le hi), Nat.zero_max]

/-- A clamp whose upper bound no value exceeds raises to the lower bound only. -/
theorem clampNat_of_le {lo hi x : Nat} (h : lo ≤ hi) (hx : x ≤ hi) : clampNat lo hi x = max lo x := by
  rw [clampNat_eq x h, min_eq_right hx]

theorem halfLo_eq (w : Word) : halfLo w = w.toNat % 65536 := by
  simp [halfLo, BitVec.extractLsb'_toNat]

theorem halfHi_eq (w : Word) : halfHi w = w.toNat / 65536 := by
  have := w.isLt
  simp only [halfHi, BitVec.extractLsb'_toNat, Nat.shiftRight_eq_div_pow]
  omega

theorem halfLo_le (w : Word) : halfLo w ≤ 65535 := by rw [halfLo_eq]; omega

theorem halfHi_le (w : Word) : halfHi w ≤ 65535 := by have := w.isLt; rw [halfHi_eq]; omega

theorem byteOf_zero (w : Word) : byteOf w 0 = w.toNat % 256 := by
  simp [byteOf, BitVec.extractLsb'_toNat]

theorem byteOf_one (w : Word) : byteOf w 1 = w.toNat / 256 % 256 := by
  simp [byteOf, BitVec.extractLsb'_toNat, Nat.shiftRight_eq_div_pow]

theorem byteOf_two (w : Word) : byteOf w 2 = w.toNat / 65536 % 256 := by
  simp [byteOf, BitVec.extractLsb'_toNat, Nat.shiftRight_eq_div_pow]

theorem byteOf_three (w : Word) : byteOf w 3 = w.toNat / 16777216 := by
  have := w.isLt
  simp only [byteOf, BitVec.extractLsb'_toNat, Nat.shiftRight_eq_div_pow]
  omega

theorem baseOf_eq (lo hi : Word) : baseOf lo hi = lo.toNat + hi.toNat % 256 * 2 ^ 32 := by
  rw [baseOf, byteOf_zero]

theorem signedLo_eq (w : Word) : signedLo w = (w.setWidth 16).toInt := by
  rw [signedLo, BitVec.setWidth_eq_extractLsb' (by decide)]

theorem signedHi_eq (w : Word) : signedHi w = (w.extractLsb' 16 16).toInt := rfl

theorem eventsOf_eq (w : Word) : eventsOf w = w.setWidth 19 := by
  rw [eventsOf, BitVec.setWidth_eq_extractLsb' (by decide)]

/-! ### Records taken -/

/-- A record taken: its row lets the time pass, does its effect and counts it (R165). -/
theorem exec_taken {s : State} {dt : Nat} (effect : State → State) (htakes : s.takesRecords = true) :
    s.recordRow dt (fun x => x.takeWith effect) = (s.begin dt).takeWith effect :=
  State.recordRow_of_takesRecords dt _ htakes

/-- A record taken after which the stall timers and the arbiter follow (R149, R156, R165). -/
theorem exec_takenSettled {s : State} {dt : Nat} (effect : State → State) (htakes : s.takesRecords = true) :
    s.recordRow dt (fun x => x.takeSettled effect) = ((s.begin dt).takeWith effect).settle :=
  State.recordRow_of_takesRecords dt _ htakes

@[simp] theorem State.settle_crec (s : State) : s.settle.crec = s.crec := s.changesOnly_settle .crec (by decide)
@[simp] theorem State.settle_fest (s : State) : s.settle.fest = s.fest := s.changesOnly_settle .fest (by decide)

/-- The count of a record whose effect leaves the control record unit alone (R165, R167). -/
theorem State.takeWith_crec_of_kept {s : State} {dt : Nat} {effect : State → State}
    (h : (effect (s.begin dt)).crec = (s.begin dt).crec) :
    ((s.begin dt).takeWith effect).crec = { s.crec with taken := s.crec.taken + 1, consec := 0 } := by
  rw [State.takeWith_crec, h, State.begin_crec]; rfl

/-! ### SHOT (R68) -/

theorem exec_shot (dt : Nat) (p : Params) (s : State) : exec (.shot dt p) s = execShot dt p s := rfl

@[simp] theorem State.recordShot_mept (s : State) (p : Params) : (s.recordShot p).mept = { s.mept with shot := p.shot } := rfl

@[simp] theorem State.takeWith_mept (s : State) (effect : State → State) :
    (s.takeWith effect).mept = (effect s).mept := State.setCrec_mept _ _

/-- Settles O36: the epoch table keeps its entries, and its shot setting is the record's (R68). -/
theorem shotReplacesTheShotSetting : Obligations.ShotReplacesTheShotSetting := by
  intro dt p s htakes
  refine ⟨_, by rw [exec_shot, execShot, exec_taken _ htakes], ?_⟩
  rw [State.takeWith_mept, State.recordShot_mept, State.begin_mept]
  refine ⟨clampNat_eq _ (by decide), clampNat_eq _ (by decide), clampNat_zero _ _, signedLo_eq _,
    clampNat_eq _ (by decide), clampNat_zero _ _, rfl, rfl, State.takeWith_crec_of_kept rfl, ?_⟩
  exact changes_takeWith (by decide) (changes_setMept _ (by decide) (State.changesOnly_refl _ _))

/-! ### TRACKING (R36, R56) -/

theorem exec_tracking (dt : Nat) (p : Params) (s : State) : exec (.tracking dt p) s = execTracking dt p s := rfl

theorem Params.monitor_eq (p : Params) (m : PositionMonitor) :
    p.monitor m = { m with
      lower := p.p2.toNat % 65536
      upper := max 100 (p.p2.toNat / 65536)
      recover := max 1 (min 8 (p.p1.toNat / 256 % 256))
      jump := max 1 (p.p3.toNat % 65536)
      rehome := max 2 (min 8 (p.p1.toNat / 65536 % 256)) } := by
  rw [Params.monitor, clampNat_of_le (by decide) (halfHi_le p.p2), clampNat_of_le (by decide) (halfLo_le p.p3),
    clampNat_eq _ (by decide), clampNat_eq _ (by decide), halfLo_eq, halfLo_eq, halfHi_eq, byteOf_one, byteOf_two]

theorem estModeOf_eq (n : Nat) : estModeOf n = if n = 0 then .latest else if n = 1 then .predict else .await := by
  unfold estModeOf; split <;> simp_all

theorem Params.estimator_eq (p : Params) :
    p.estimator = ⟨if p.p1.toNat % 256 = 0 then .latest else if p.p1.toNat % 256 = 1 then .predict else .await,
      p.p3.toNat / 65536, p.p4.toNat % 65536⟩ := by
  rw [Params.estimator, estModeOf_eq, byteOf_zero, halfHi_eq, halfLo_eq]

/-- Without a waiting deferral and an overrun window, a TRACKING record replaces the settings only (R36, R54). -/
theorem State.track_of_quiet {s : State} (p : Params) (hwait : s.bpln.deferral = none)
    (htimer : ∀ t0, s.pmon.timer = some t0 → elapsed t0 s.time ≤ (p.monitor s.pmon).upper) :
    s.track p = s.setTracking p := by
  have hover : (s.setTracking p).windowOverrun = false := by
    unfold State.windowOverrun
    split
    · rfl
    · next t0 h =>
      have := htimer t0 h
      exact Bool.and_eq_false_iff.mpr (.inr (decide_eq_false (Nat.not_lt.mpr this)))
  have hdef : (s.setTracking p).trackingDeferral = s.setTracking p := by
    unfold State.trackingDeferral
    rw [show (s.setTracking p).bpln.deferral = none from hwait]
  unfold State.track
  simp only [hover, Bool.false_and, Bool.false_eq_true, if_false, hdef, State.trackingExpiry]

@[simp] theorem State.takeWith_pmon (s : State) (effect : State → State) :
    (s.takeWith effect).pmon = (effect s).pmon := State.setCrec_pmon _ _
@[simp] theorem State.takeWith_fest (s : State) (effect : State → State) :
    (s.takeWith effect).fest = (effect s).fest := State.setCrec_fest _ _
@[simp] theorem State.setTracking_pmon (s : State) (p : Params) : (s.setTracking p).pmon = p.monitor s.pmon := rfl
@[simp] theorem State.setTracking_fest (s : State) (p : Params) : (s.setTracking p).fest = p.estimator := rfl

/-- Settles O40: with nothing to wait out and nothing to expire, the record is its settings (R36, R56). -/
theorem trackingReplacesMonitorAndEstimatorSettings : Obligations.TrackingReplacesMonitorAndEstimatorSettings := by
  intro dt p s htakes hwait htimer
  have htrack : (s.begin dt).track p = (s.begin dt).setTracking p := by
    refine State.track_of_quiet p (by rwa [State.begin_bpln]) fun t0 ht => ?_
    rw [State.begin_pmon] at ht
    rw [State.begin_time_of_takesRecords dt htakes, Params.monitor_eq]
    exact htimer t0 ht
  refine ⟨_, by rw [exec_tracking, execTracking, exec_takenSettled _ htakes], ?_⟩
  rw [State.settle_pmon, State.settle_fest, State.settle_crec, State.takeWith_pmon, State.takeWith_fest, htrack,
    State.setTracking_pmon, State.setTracking_fest, State.begin_pmon]
  refine ⟨Params.monitor_eq p _, Params.estimator_eq p, State.takeWith_crec_of_kept (by rw [htrack]; rfl), ?_⟩
  refine changes_settle (by decide) (by decide) (by decide) (changes_takeWith (by decide) ?_)
  rw [htrack]
  exact changes_setFest _ (by decide) (changes_setPmon _ (by decide) (State.changesOnly_refl _ _))

/-! ### MOTION (R28, R111) -/

theorem exec_motion (dt : Nat) (p : Params) (s : State) : exec (.motion dt p) s = execMotion dt p s := rfl

theorem lossOf_eq (n : Nat) : lossOf n = if n = 0 then .hold else if n = 1 then .rest else .neutral := by
  unfold lossOf; split <;> simp_all

theorem Params.motion_eq (p : Params) :
    p.motion = ⟨max 1 (p.p1.toNat % 65536), max 1 (min 4096 (p.p1.toNat / 65536)), min 4096 (p.p2.toNat % 65536),
      min 255 (p.p2.toNat / 65536),
      if p.p3.toNat % 256 = 0 then .hold else if p.p3.toNat % 256 = 1 then .rest else .neutral⟩ := by
  rw [Params.motion, clampNat_of_le (by decide) (halfLo_le p.p1), clampNat_eq _ (by decide), clampNat_zero,
    clampNat_zero, lossOf_eq, halfLo_eq, halfLo_eq, halfHi_eq, halfHi_eq, byteOf_zero]

theorem Params.line_eq (p : Params) (l : LineReceiver) :
    p.line l = { l with
      latency := p.p4.toNat % 65536
      badLimit := max 1 (min 16 (p.p3.toNat / 256 % 256)) } := by
  rw [Params.line, clampNat_eq _ (by decide), halfLo_eq, byteOf_one]

@[simp] theorem State.takeWith_bpln (s : State) (effect : State → State) :
    (s.takeWith effect).bpln = (effect s).bpln := State.setCrec_bpln _ _
@[simp] theorem State.takeWith_llr (s : State) (effect : State → State) :
    (s.takeWith effect).llr = (effect s).llr := State.setCrec_llr _ _
@[simp] theorem State.recordMotion_bpln (s : State) (p : Params) :
    (s.recordMotion p).bpln = { s.bpln with settings := p.motion } := rfl
@[simp] theorem State.recordMotion_llr (s : State) (p : Params) : (s.recordMotion p).llr = p.line s.llr := rfl

/-- Settles O41: the planner's settings and the receiver's two are the record's (R28, R111). -/
theorem motionReplacesMotionAndLineSettings : Obligations.MotionReplacesMotionAndLineSettings := by
  intro dt p s htakes
  refine ⟨_, by rw [exec_motion, execMotion, exec_taken _ htakes], ?_⟩
  rw [State.takeWith_bpln, State.takeWith_llr, State.recordMotion_bpln, State.recordMotion_llr, State.begin_bpln,
    State.begin_llr, Params.motion_eq, Params.line_eq]
  refine ⟨rfl, rfl, State.takeWith_crec_of_kept rfl, ?_⟩
  exact changes_takeWith (by decide)
    (changes_setLlr _ (by decide) (changes_setBpln _ (by decide) (State.changesOnly_refl _ _)))

/-! ### PROFILE_WINDOW (R76) -/

theorem exec_profileWindow (dt : Nat) (p : Params) (s : State) :
    exec (.profileWindow dt p) s = execProfileWindow dt p s := rfl

theorem Params.profileWindow_eq (p : Params) :
    p.profileWindow = if p.p2.toNat / 256 % 256 = 0 then none
      else some ((p.p1.toNat + p.p2.toNat % 256 * 2 ^ 32) / 4096 * 4096) := by
  rw [Params.profileWindow, byteOf_one, baseOf_eq]

@[simp] theorem State.takeWith_pb (s : State) (effect : State → State) :
    (s.takeWith effect).pb = (effect s).pb := State.setCrec_pb _ _
@[simp] theorem State.recordProfileWindow_pb (s : State) (p : Params) :
    (s.recordProfileWindow p).pb = { s.pb with profileBase := p.profileWindow } := rfl
@[simp] theorem State.recordProfileWindow_psto (s : State) (p : Params) :
    (s.recordProfileWindow p).psto =
      { s.psto with coverage := if s.psto.pendingSwap then s.psto.coverage else 0 } := rfl

/-- Settles O42: the port bridge gets the window, and the store's coverage is cleared in OPEN (R76). -/
theorem profileWindowMovesAndClearsCoverage : Obligations.ProfileWindowMovesAndClearsCoverage := by
  intro dt p s htakes
  refine ⟨_, by rw [exec_profileWindow, execProfileWindow, exec_taken _ htakes], ?_⟩
  rw [State.takeWith_pb, State.takeWith_psto, State.recordProfileWindow_pb, State.recordProfileWindow_psto,
    State.begin_pb, State.begin_psto, Params.profileWindow_eq]
  refine ⟨rfl, rfl, State.takeWith_crec_of_kept rfl, ?_⟩
  exact changes_takeWith (by decide)
    (changes_setPsto _ (by decide) (changes_setPb _ (by decide) (State.changesOnly_refl _ _)))

/-! ### EVENT_MASK (R167, R171, R173) -/

theorem exec_eventMask (dt : Nat) (p : Params) (s : State) : exec (.eventMask dt p) s = execEventMask dt p s := rfl

@[simp] theorem State.recordMask_evu (s : State) (p : Params) :
    (s.recordMask p).evu = s.evu.remask s.isReady (eventsOf p.p1) := rfl
@[simp] theorem State.recordMask_crec (s : State) (p : Params) :
    (s.recordMask p).crec = { s.crec with limit := p.rejectLimit } := rfl

theorem State.isReady_of_takesRecords {s : State} (h : s.takesRecords = true) : s.isReady = true := by
  simp [State.isReady, State.takesRecords_ready h]

/-- Settles O46: the event unit left is that of `EventUnit.remask` in READY, and the unit's limit is the record's. -/
theorem maskReplacesTheEventMask : Obligations.MaskReplacesTheEventMask := by
  intro dt p s htakes
  have hevu : ((s.begin dt).takeWith fun u => u.recordMask p).evu = s.evu.remask true (p.p1.setWidth 19) := by
    rw [State.takeWith_evu, State.recordMask_evu, State.begin_evu, State.begin_isReady,
      State.isReady_of_takesRecords htakes, eventsOf_eq]
  refine ⟨_, by rw [exec_eventMask, execEventMask, exec_taken _ htakes], ?_⟩
  rw [hevu, EventUnit.remask_set, EventUnit.remask_mask, EventUnit.remask_line]
  refine ⟨rfl, rfl, ?_, fun g hg => by rw [hg], ?_, ?_⟩
  · rintro (hline | hline) <;> simp [hline]
  · rw [State.takeWith_crec, State.recordMask_crec, State.begin_crec, Params.rejectLimit, clampNat_eq _ (by decide)]
    rfl
  · exact changes_takeWith (by decide)
      (changes_setCrec _ (by decide) (changes_setEvu _ (by decide) (State.changesOnly_refl _ _)))

/-! ### REPORT_RING (R175) -/

theorem exec_reportRing (dt : Nat) (p : Params) (s : State) : exec (.reportRing dt p) s = execReportRing dt p s := rfl

theorem QueuedReport.isWaiting_eq (q : QueuedReport) : q.isWaiting = decide (q.stage = .waiting) := by
  unfold QueuedReport.isWaiting; split <;> simp_all

@[simp] theorem State.takeWith_rpw (s : State) (effect : State → State) :
    (s.takeWith effect).rpw = (effect s).rpw := State.setCrec_rpw _ _
@[simp] theorem State.setRing_rpw (s : State) (p : Params) : (s.setRing p).rpw = s.rpw.ring p := rfl
theorem State.setRpw_latchIf_evu (s : State) (v : ReportWriter) (b : Bool) (e : Event) :
    ((s.setRpw v).latchIf b e).evu = if b then s.evu.latch s.isReady e else s.evu := rfl

theorem State.setRing_evu (s : State) (p : Params) :
    (s.setRing p).evu = if decide (p.ringSlots = 0) && s.rpw.queue.any (·.isWaiting) then
      s.evu.latch s.isReady .reportDropped else s.evu := State.setRpw_latchIf_evu s _ _ _

theorem State.setRpw_latchIf_crec (s : State) (v : ReportWriter) (b : Bool) (e : Event) :
    ((s.setRpw v).latchIf b e).crec = s.crec := rfl

theorem State.setRing_crec (s : State) (p : Params) : (s.setRing p).crec = s.crec :=
  State.setRpw_latchIf_crec s _ _ _

/-- The record leaves the sequence number (R175). -/
theorem ReportWriter.ring_nextSeq (r : ReportWriter) (p : Params) : (r.ring p).nextSeq = r.nextSeq := by
  unfold ReportWriter.ring
  generalize p.ringBase = base
  rfl

theorem Params.ringSlots_eq (p : Params) : p.ringSlots = min 256 p.p3.toNat := clampNat_zero _ _

theorem Params.probeFirst_eq (p : Params) : p.probeFirst = min 63 (p.p4.toNat % 65536) := by
  rw [Params.probeFirst, clampNat_zero, halfLo_eq]

theorem Params.probeLast_eq (p : Params) :
    p.probeLast = max p.probeFirst (min (p.probeFirst + 3) (min 63 (p.p4.toNat / 65536))) := by
  rw [Params.probeLast, clampNat_eq _ (Nat.le_add_right _ _), clampNat_zero, halfHi_eq]

/-- Settles O48: the report writer left is that of `ReportWriter.ring`, whose queue and count depend on a count of 0. -/
theorem ringRecordSetsTheRing : Obligations.RingRecordSetsTheRing := by
  intro dt p s htakes
  have hevu := (s.begin dt).setRing_evu p
  refine ⟨_, by rw [exec_reportRing, execReportRing, exec_taken _ htakes], ?_⟩
  rw [State.takeWith_rpw, State.takeWith_evu, State.setRing_rpw, hevu, State.begin_rpw, State.begin_evu]
  refine ⟨?_, Params.ringSlots_eq p, rfl, ReportWriter.ring_nextSeq _ _, Params.probeFirst_eq p,
    Params.probeLast_eq p, fun hsome => ?_, fun hnone => ?_, ?_, ?_⟩
  · show p.ringBase = _
    rw [Params.ringBase, baseOf_eq]
  · have hslots : p.ringSlots ≠ 0 := by rw [Params.ringSlots_eq]; omega
    simp [ReportWriter.ring, hslots]
  · have hslots : p.ringSlots = 0 := by rw [Params.ringSlots_eq, hnone]; rfl
    simp only [ReportWriter.ring, hslots, if_true, decide_true, Bool.true_and, QueuedReport.isWaiting_eq]
    refine ⟨by simp, trivial, fun ⟨q, hq, hstage⟩ => ?_⟩
    rw [if_pos (List.any_eq_true.mpr ⟨q, hq, by simpa using hstage⟩)]
    exact EventUnit.latch_getLsbD _ _ _
  · exact State.takeWith_crec_of_kept (State.setRing_crec _ p)
  · exact changes_takeWith (by decide)
      (changes_latchIf _ _ (by decide) (changes_setRpw _ (by decide) (State.changesOnly_refl _ _)))

end Sys2Proof.Machine
end

section
/-! PROOFS. The lens line's plain cases and the resets (chapters 2 and 11): a character that begins or extends a telegram,
the gap that abandons one, the end of an attention gap, the judging of a candidate, and the three resets. -/

namespace Sys2Proof.Machine

/-! ### Characters (R20 to R22) -/

theorem State.hears_begin_early {s : State} {dt : Nat} (hready : s.stl.part = .ready) (hwait : dt < s.lineWait) :
    (s.begin dt).hears = false := by
  have : s.lineWait - dt ≠ 0 := by omega
  simp [State.hears, State.begin_lineWait, hready, this]

/-- A character that the receiver hears takes its course, then the command ends (R20). -/
theorem exec_heardCharacter {s : State} {dt : Nat} (b : Byte) (fe : Bool) (hready : s.stl.part = .ready)
    (hwait : s.lineWait ≤ dt) :
    exec (.lplCharacter dt b fe) s = .next ((s.begin dt).character b fe).settle := by
  rw [exec_lplCharacter, execLplCharacter]
  simp [State.hears_begin hready hwait]

theorem State.character_of_hunt {s : State} (b : Byte) (fe : Bool) (hasm : s.llr.asm = .hunt) :
    s.character b fe = s.huntCharacter b fe := by simp [State.character, hasm]

/-- One more byte of a telegram of fewer than nine (R21). -/
theorem State.character_extends {s : State} {held : List Byte} (b : Byte) (hasm : s.llr.asm = .assemble held)
    (hlen : held.length < 8) (hgap : s.gapBefore = false) :
    s.character b false = s.setLlr { s.llr with asm := .assemble (held ++ [b]), lastEnd := s.time } := by
  simp [State.character, State.assembleCharacter, hasm, hgap, hlen]

theorem State.huntCharacter_llr (s : State) (b : Byte) (fe : Bool) :
    (s.huntCharacter b fe).llr =
      if b = 0xC5 ∧ fe = false then { s.llr with asm := .assemble [b], lastEnd := s.time } else s.llr := by
  unfold State.huntCharacter; split <;> rfl

theorem changes_huntCharacter {s t : State} {bs : List Block} (b : Byte) (fe : Bool) (hl : Block.llr ∈ bs)
    (h : s.changesOnly t bs) : s.changesOnly (t.huntCharacter b fe) bs := by
  unfold State.huntCharacter; split
  · exact changes_setLlr _ hl h
  · exact h

/-- Settles O18: too early a character is not heard; in HUNT the sync byte alone begins a telegram; in ASSEMBLE every byte
extends it (R20, R21). -/
theorem characterBeginsOrExtendsATelegram : Obligations.CharacterBeginsOrExtendsATelegram := by
  intro dt b fe s hready
  refine ⟨fun hearly => ?_, fun hwait hasm => ?_, fun held hwait hasm hlen hgap hfe => ?_⟩
  · refine ⟨_, rfl, ?_⟩
    rw [State.hears_begin_early hready hearly]
    exact State.changesOnly_refl _ _
  · have hhunt := State.character_of_hunt b fe ((congrArg LineReceiver.asm (s.begin_llr dt)).trans hasm)
    refine ⟨_, exec_heardCharacter b fe hready hwait, ?_, ?_⟩
    · rw [State.settle_llr, hhunt, State.huntCharacter_llr, State.begin_llr, State.begin_time_of_ready dt hready]
    · rw [hhunt]
      exact changes_settle (by decide) (by decide) (by decide)
        (changes_huntCharacter b fe (by decide) (State.changesOnly_refl _ _))
  · subst hfe
    have hext := State.character_extends b ((congrArg LineReceiver.asm (s.begin_llr dt)).trans hasm) hlen hgap
    refine ⟨_, exec_heardCharacter b false hready hwait, ?_, ?_⟩
    · rw [State.settle_llr, hext, State.setLlr_llr, State.begin_llr, State.begin_time_of_ready dt hready]
    · rw [hext]
      exact changes_settle (by decide) (by decide) (by decide)
        (changes_setLlr _ (by decide) (State.changesOnly_refl _ _))

theorem exec_assemblyGapTimeout (dt : Nat) (s : State) :
    exec (.assemblyGapTimeout dt) s =
      .next (if (s.begin dt).isReady && (s.begin dt).abandonDue then (s.begin dt).setLlr (s.begin dt).llr.hunt
        else s.begin dt) := rfl

/-- Settles O22: the gap at each rate is 30 bit times, after which the assembler hunts again (R22 (2)). -/
theorem gapAbandonsTheTelegram : Obligations.GapAbandonsTheTelegram := by
  intro dt held s hready hasm hgap
  have hdue : (s.begin dt).abandonDue = true := by
    simp only [State.abandonDue, State.begin_llr, hasm, State.gapDue, State.begin_stl,
      State.begin_time_of_ready dt hready, decide_eq_true_eq]
    cases hrate : s.stl.lineRate <;> rw [hrate] at hgap <;> exact hgap
  have hready' : (s.begin dt).isReady = true := by simp [State.isReady, hready]
  refine ⟨_, by rw [exec_assemblyGapTimeout, hready', hdue, Bool.and_self, if_pos rfl], ?_, ?_⟩
  · rw [State.setLlr_llr, State.begin_llr]; rfl
  · exact changes_setLlr _ (by decide) (State.changesOnly_refl _ _)

/-! ### The end of an attention gap (R173) -/

theorem exec_attnGapEnd (dt : Nat) (s : State) :
    exec (.attnGapEnd dt) s =
      .next (if (s.begin dt).isReady && (s.begin dt).gapOver then (s.begin dt).setEvu (s.begin dt).evu.drive
        else s.begin dt) := rfl

theorem EventUnit.drive_eq (u : EventUnit) :
    u.drive = { u with line := if u.set &&& u.mask = 0 then .released else .asserted } := by
  unfold EventUnit.drive EventUnit.shares
  by_cases h : u.set &&& u.mask = 0 <;> simp [h]

/-- Settles O47: the gap is over 2 µs after its start, when the line follows the set and the mask (R173 (3)). -/
theorem gapEndsAfterTwoMicroseconds : Obligations.GapEndsAfterTwoMicroseconds := by
  intro dt g s hready hline
  have hready' : (s.begin dt).isReady = true := by simp [State.isReady, hready]
  have hover : (s.begin dt).gapOver = decide (2 ≤ elapsed g (s.time + BitVec.ofNat 32 dt)) := by
    simp only [State.gapOver, State.begin_evu, hline, State.begin_time_of_ready dt hready]
  refine ⟨_, exec_attnGapEnd dt s, fun hdue => ?_, fun hearly => ?_⟩
  · rw [hready', hover, decide_eq_true hdue, Bool.and_self, if_pos rfl, State.setEvu_evu, State.begin_evu,
      EventUnit.drive_eq]
    exact ⟨rfl, changes_setEvu _ (by decide) (State.changesOnly_refl _ _)⟩
  · rw [hready', hover, decide_eq_false (by omega), Bool.and_false, if_neg (by decide)]
    exact State.changesOnly_refl _ _

/-! ### The timing window (R35) -/

theorem exec_timingWindowExpiry (dt : Nat) (s : State) :
    exec (.timingWindowExpiry dt) s =
      .next (if (s.begin dt).windowDue then (s.begin dt).expireWindow.settle else s.begin dt) := rfl

/-- Without a waiting deferral there is none to abandon (R53). -/
theorem State.abandonDeferral_of_none {s : State} (h : s.bpln.deferral = none) : s.abandonDeferral = s := by
  rw [State.abandonDeferral, State.endDeferral, h]

/-- The bit of an event once latched. -/
def State.has (s : State) (e : Event) : Prop := s.evu.set.getLsbD e.pos = true

/-- What planning, frames and reports leave latched they leave latched. -/
theorem Inner.keeps_event {s t : State} (e : Event) (h : Inner s t) (hs : s.has e) : t.has e := by
  have hlatch : ∀ (u : State) (e' : Event), u.has e → (u.latch e').has e := by
    intro u e' hu
    show (u.evu.latch u.isReady e').set.getLsbD e.pos = true
    rw [EventUnit.latch_set, BitVec.getLsbD_or, show u.evu.set.getLsbD e.pos = true from hu, Bool.true_or]
  cases h with
  | free h => exact (congrArg (fun u : EventUnit => u.set.getLsbD e.pos) (h .evu (by decide))).trans hs
  | latch e' => exact hlatch s e' hs
  | create m k f =>
    show s.makeRoom.has e
    unfold State.makeRoom; split
    · exact hs
    · exact hlatch (s.holdEntries _) _ hs
  | _ => exact hs

theorem Inners.keeps_event {s t : State} (e : Event) (h : Inners s t) (hs : s.has e) : t.has e :=
  h.keeps (fun _ _ k => k.keeps_event e) hs

theorem State.has_latch (s : State) (e : Event) : (s.latch e).has e := EventUnit.latch_getLsbD _ _ _

theorem State.has_settle {s : State} {e : Event} (h : s.has e) : s.settle.has e := by
  unfold State.has at h ⊢; rwa [State.settle_evu]

@[simp] theorem State.settle_ptrk (s : State) : s.settle.ptrk = s.ptrk := s.changesOnly_settle .ptrk (by decide)

/-- The window's expiry before the deferral it abandons (R35). -/
def State.losePosition (s : State) : State := (s.setPmon s.pmon.expire).latch .posLost

theorem State.expireWindow_eq (s : State) : s.expireWindow = s.losePosition.abandonDeferral := rfl

/-- Settles O23: the monitor expires and POS_LOST latches; abandoning a deferral plans, which leaves monitor and track
alone (R35, R53). -/
theorem timingWindowExpiryLosesTheTrack : Obligations.TimingWindowExpiryLosesTheTrack := by
  intro dt t0 s hpart hpos htimer hupper
  have hdue : (s.begin dt).windowDue = true := by
    simp only [State.windowDue, State.begin_pmon, htimer, State.begin_time, if_neg hpart, Bool.and_eq_true,
      decide_eq_true_eq]
    exact ⟨hpos, hupper⟩
  have hplan := changes_abandonDeferral ((s.begin dt).losePosition.changesOnly_refl planBlocks)
  have hmon : (s.begin dt).losePosition.pmon = s.pmon.expire := congrArg PositionMonitor.expire (s.begin_pmon dt)
  have hframe : (s.begin dt).changesOnly (s.begin dt).losePosition [.pmon, .evu, .stall0, .stall1, .grant] :=
    changes_latch _ (by decide) (changes_setPmon _ (by decide) (State.changesOnly_refl _ _))
  refine ⟨_, by rw [exec_timingWindowExpiry, hdue, if_pos rfl, State.expireWindow_eq], ?_, ?_, ?_, fun hnone => ?_, ?_⟩
  · rw [State.settle_pmon, hplan .pmon (by decide), hmon]; rfl
  · exact State.has_settle (Inners.keeps_event .posLost (inners_endDeferral none false (inners_refl _))
      (State.has_latch _ .posLost))
  · rw [State.settle_ptrk, hplan .ptrk (by decide)]
    exact s.begin_ptrk dt
  · rw [State.abandonDeferral_of_none (s := (s.begin dt).losePosition)
      ((congrArg Planner.deferral (s.begin_bpln dt)).trans hnone), State.settle_evu]
    refine ⟨?_, changes_settle (by decide) (by decide) (by decide) hframe⟩
    exact (EventUnit.latch_set _ _ _).trans (congrArg (fun u : EventUnit => u.set ||| Event.posLost.bit) (s.begin_evu dt))
  · exact changes_settle (by decide) (by decide) (by decide) (State.changesOnly_trans
      (State.changesOnly_mono hframe (by decide)) (State.changesOnly_mono hplan (by decide)))

/-! ### The judging of a candidate (R29, R33) -/

theorem State.judge_of_early {s : State} {k : Candidate} (h : s.pmon.isEarly k.arrival = true) :
    s.judge k =
      (s.setPmon (s.pmon.note k.arrival).dropEarly).latchIf (decide (s.pmon.pos = .track)) .posEarly := by
  unfold State.judge; rw [if_pos h]; rfl

/-- A candidate that passes every test outside LOST is accepted, and then offered to a waiting deferral (R33). -/
theorem State.judge_of_good {s : State} {k : Candidate} (hearly : s.pmon.isEarly k.arrival = false)
    (hpos : s.pmon.pos ≠ .lost) (hstale : s.ptrk.staleAt k.sample.t = false)
    (hplausible : s.ptrk.implausibleAt k.sample.focus s.pmon.jump = false) :
    s.judge k = ((s.setPmon (s.pmon.note k.arrival)).acceptSample k.sample).offerInsertion := by
  have hjump : s.ptrk.implausibleAt k.sample.focus (s.pmon.note k.arrival).jump = false := hplausible
  unfold State.judge
  rw [hearly, if_neg (by decide), if_neg hpos]
  unfold State.judgeHeld
  simp only [State.setPmon_ptrk, State.setPmon_pmon, hstale, hjump, Bool.false_eq_true, if_false]

theorem State.acceptSample_ptrk (s : State) (x : Sample) : (s.acceptSample x).ptrk = s.ptrk.insert x := by
  unfold State.acceptSample; dsimp only; split
  · exact s.insertSample_ptrk x
  · exact s.insertSample_ptrk x

theorem State.acceptSample_pmon (s : State) (x : Sample) :
    (s.acceptSample x).pmon =
      if s.pmon.pos = .acquire then { s.pmon with timer := some s.time, run := none }.recovered (s.pmon.timely + 1)
      else { s.pmon with timer := some s.time, run := none } := by
  unfold State.acceptSample
  by_cases h : s.pmon.pos = .acquire
  · rw [if_pos h, if_pos (show (s.insertSample x).emptyRun.pmon.pos = .acquire by rw [← h]; rfl)]; rfl
  · rw [if_neg h, if_neg (show (s.insertSample x).emptyRun.pmon.pos ≠ .acquire from h)]; rfl

/-- The sample that completes the recover count latches POS_TRACK (R33). -/
theorem State.acceptSample_has {s : State} (x : Sample) (hpos : s.pmon.pos = .acquire)
    (hcount : s.pmon.recover ≤ s.pmon.timely + 1) : (s.acceptSample x).has .posTrack := by
  unfold State.acceptSample
  rw [if_pos (show (s.insertSample x).emptyRun.pmon.pos = .acquire from hpos)]
  unfold State.advanceTimely
  rw [decide_eq_true (show (s.insertSample x).emptyRun.pmon.recover ≤ (s.insertSample x).emptyRun.pmon.timely + 1 from
    hcount)]
  exact State.has_latch _ _

/-- Settles O21: an early candidate touches the monitor and the events only; a good one is inserted, and what follows the
insertion plans (R29, R33, R41). -/
theorem earlyIsDroppedAndGoodIsInserted : Obligations.EarlyIsDroppedAndGoodIsInserted := by
  intro k s
  refine ⟨fun hearly => ?_, fun hearly hpos hstale hplausible => ?_⟩
  · rw [State.judge_of_early hearly]
    refine ⟨rfl, ?_, changes_latchIf _ _ (by decide) (changes_setPmon _ (by decide) (State.changesOnly_refl _ _))⟩
    rw [State.latchIf_evu]
    by_cases htrack : s.pmon.pos = .track
    · rw [decide_eq_true htrack, if_pos rfl, if_pos htrack, EventUnit.latch_set]; rfl
    · rw [decide_eq_false htrack, if_neg (by decide), if_neg htrack]; rfl
  · have hins := changes_offerInsertion
      (((s.setPmon (s.pmon.note k.arrival)).acceptSample k.sample).changesOnly_refl planBlocks)
    rw [State.judge_of_good hearly hpos hstale hplausible]
    refine ⟨?_, ?_, fun hacquire hcount => ?_⟩
    · rw [hins .ptrk (by decide), State.acceptSample_ptrk]; rfl
    · rw [State.offerInsertion_pmon, State.acceptSample_pmon]
      cases hp : s.pmon.pos with
      | lost => exact absurd hp hpos
      | acquire =>
        by_cases hcount : s.pmon.recover ≤ s.pmon.timely + 1
        · simp [PositionMonitor.note, PositionMonitor.recovered, hp, hcount]
        · simp [PositionMonitor.note, PositionMonitor.recovered, hp, hcount, Nat.lt_of_not_le hcount]
      | track => simp [PositionMonitor.note, hp]
    · exact Inners.keeps_event .posTrack (inners_offerInsertion (inners_refl _))
        (State.acceptSample_has k.sample hacquire hcount)

/-! ### The resets (R182 to R185) -/

theorem Arbiter.quiet_iff (a : Arbiter) :
    a.quiet = true ↔ a.owner = none ∧ ∀ r, a.runs.get r = none ∧ a.issued.get r = [] := by
  simp only [Arbiter.quiet, Bool.and_eq_true, Option.isNone_iff_eq_none, List.all_eq_true, List.isEmpty_iff]
  exact and_congr_right fun _ => ⟨fun h r => h r (mem_cycleOrder r), fun h r _ => h r⟩

/-- The conditions of closing (R184). -/
theorem State.closed_iff (s : State) :
    s.closed = true ↔ s.stl.pendingReset = true ∧ s.bothResting = true ∧ s.pb.holds = [] ∧ s.pb.responses = [] ∧
      s.pb.reads = [] ∧ (s.warb.owner = none ∧ ∀ r, s.warb.runs.get r = none ∧ s.warb.issued.get r = []) ∧
      s.rpw.queue = [] := by
  simp only [State.closed, Bool.and_eq_true, List.isEmpty_iff, Arbiter.quiet_iff, and_assoc]

@[simp] theorem State.begin_bothResting (s : State) (dt : Nat) : (s.begin dt).bothResting = s.bothResting := by
  simp [State.bothResting]

@[simp] theorem State.begin_closed (s : State) (dt : Nat) : (s.begin dt).closed = s.closed := by
  simp [State.closed]

theorem changes_reload (s : State) : State.reset.changesOnly s.reload [.pb, .pending] :=
  changes_setPending _ (by decide) (changes_setPb _ (by decide) (State.changesOnly_refl _ _))

/-- Settles O56: the conditions of closing are `State.closed`; with them the part reloads, else only time passes (R184). -/
theorem closedResetAllReloads : Obligations.ClosedResetAllReloads := by
  intro dt s
  refine ⟨_, exec_resetAllTakesEffect dt s, fun hp hb hh hr hrd ho hq hrep => ?_, fun hopen => ?_⟩
  · have hclosed : (s.begin dt).closed = true := by
      rw [State.begin_closed]; exact s.closed_iff.mpr ⟨hp, hb, hh, hr, hrd, ⟨ho, hq⟩, hrep⟩
    rw [if_pos hclosed]
    exact ⟨changes_reload _, congrArg (fun b : PortBridge => { PortBridge.reset with channel := b.channel }) (s.begin_pb dt)⟩
  · have hclosed : (s.begin dt).closed = false := by
      rw [State.begin_closed, ← Bool.not_eq_true, State.closed_iff]
      rintro ⟨hp, hb, hh, hr, hrd, ⟨ho, hq⟩, hrep⟩
      obtain h | h | h | h | h | h | ⟨r, h | h⟩ | h := hopen
      · rw [hp] at h; cases h
      · rw [hb] at h; cases h
      · exact h hh
      · exact h hr
      · exact h hrd
      · exact h ho
      · exact h (hq r).1
      · exact h (hq r).2
      · exact h hrep
    rw [hclosed, if_neg (by decide)]
    exact State.changesOnly_refl _ _

/-- Settles O57: the state is the one after reset but for the loader, the ports and the queue (R182). -/
theorem pinResetDiscardsAllWork : Obligations.PinResetDiscardsAllWork := fun dt s =>
  ⟨_, exec_pinResetAssert dt s, rfl, rfl, rfl, rfl, rfl, changes_setPending _ (by decide)
    (changes_setOutputs _ (by decide) (changes_setStl _ (by decide) (State.changesOnly_refl _ _)))⟩

/-- Settles O58: the state is the one after reset but for the queue (R182, R185). -/
theorem releaseBeginsTheImageRead : Obligations.ReleaseBeginsTheImageRead := by
  intro dt s hreset
  refine ⟨_, by rw [exec_pinResetRelease, if_pos hreset], rfl, rfl, rfl, rfl, rfl, ?_⟩
  exact changes_setPending _ (by decide) (State.changesOnly_refl _ _)

end Sys2Proof.Machine
end

section
/-! PROOFS. The commit of a staged profile (chapter 5): the checks of Table 5.2 one by one, and the clamped ratio offsets
(R80 to R86). -/

namespace Sys2Proof.Machine

/-! ### Two-byte fields -/

theorem Table.readLE_one (t : Table) (x : Nat) : t.readLE x 1 = (t.read x).toNat := by
  simp [Table.readLE]

theorem Table.readLE_two (t : Table) (x : Nat) :
    t.readLE x 2 = (t.read x).toNat + 256 * (t.read (x + 1)).toNat := by
  simp [Table.readLE]

/-- A field depends on its two bytes only. -/
theorem Table.i16_congr {t u : Table} {x : Nat} (h0 : t.read x = u.read x) (h1 : t.read (x + 1) = u.read (x + 1)) :
    t.i16 x = u.i16 x := by
  rw [Table.i16, Table.i16, Table.readLE_two, Table.readLE_two, h0, h1]

theorem Table.read_writeI16_other {t : Table} {x y : Nat} (v : Int) (hx : x + 1 < 4096) (ht : t.wf = true)
    (h0 : y ≠ x) (h1 : y ≠ x + 1) : (t.writeI16 x v).read y = t.read y := by
  unfold Table.writeI16
  dsimp only
  rw [Table.read_write _ _ _ (Table.wf_write _ (by omega) ht), if_neg h1, Table.read_write _ _ _ ht, if_neg h0]

/-- A signed 16-bit field reads back as it was stored. -/
theorem Table.i16_writeI16 {t : Table} {x : Nat} (v : Int) (hx : x + 1 < 4096) (ht : t.wf = true) :
    (t.writeI16 x v).i16 x = (BitVec.ofInt 16 v).toInt := by
  have hlow : (t.writeI16 x v).read x = (BitVec.ofInt 16 v).extractLsb' 0 8 := by
    unfold Table.writeI16
    dsimp only
    rw [Table.read_write _ _ _ (Table.wf_write _ (by omega) ht), if_neg (by omega), Table.read_write _ _ _ ht, if_pos rfl]
  have hhigh : (t.writeI16 x v).read (x + 1) = (BitVec.ofInt 16 v).extractLsb' 8 8 := by
    unfold Table.writeI16
    dsimp only
    rw [Table.read_write _ _ _ (Table.wf_write _ (by omega) ht), if_pos rfl]
  rw [Table.i16, Table.readLE_two, hlow, hhigh]
  congr 1
  apply BitVec.eq_of_toNat_eq
  have := (BitVec.ofInt 16 v).isLt
  simp only [BitVec.toNat_ofNat, BitVec.extractLsb'_toNat, Nat.shiftRight_eq_div_pow]
  omega

/-! ### The clamped offsets (R86) -/

/-- The value of the ratio offset of a node that is replaced (R86). -/
def clampedOffset (v : Int) : Int := if v < -4096 then -4096 else 4096

/-- One node more: its offset is replaced where it lies out of range. -/
theorem clampOffsets_succ (t : Table) (n : Nat) :
    clampOffsets t (n + 1) =
      if t.kofs n < -4096 ∨ 4096 < t.kofs n then
        (clampOffsets t n).writeI16 (42 + 8 * n) (clampedOffset (t.kofs n))
      else clampOffsets t n := by
  rw [clampOffsets, clampedOffset]
  by_cases hlow : t.kofs n < -4096
  · simp [hlow]
  · by_cases hhigh : 4096 < t.kofs n <;> simp [hlow, hhigh]

/-- Bytes outside the offsets of the nodes stay (R86). -/
theorem clampOffsets_read {t : Table} (ht : t.wf = true) {x : Nat} : ∀ n, n ≤ 505 →
    (∀ i, i < n → x ≠ 42 + 8 * i ∧ x ≠ 43 + 8 * i) → (clampOffsets t n).read x = t.read x
  | 0, _, _ => rfl
  | n + 1, hn, hx => by
    have ih := clampOffsets_read ht n (by omega) fun i hi => hx i (by omega)
    obtain ⟨h0, h1⟩ := hx n (by omega)
    rw [clampOffsets_succ]
    split
    · rw [Table.read_writeI16_other _ (by omega) (clampOffsets_wf ht n (by omega)) h0 (by omega), ih]
    · exact ih

/-- An offset not reached yet is the table's. -/
theorem clampOffsets_kofs_beyond {t : Table} (ht : t.wf = true) {n i : Nat} (hn : n ≤ 505) (hi : n ≤ i) :
    (clampOffsets t n).kofs i = t.kofs i :=
  Table.i16_congr (clampOffsets_read ht n hn fun j hj => by omega) (clampOffsets_read ht n hn fun j hj => by omega)

theorem clampedOffset_toInt (v : Int) : (BitVec.ofInt 16 (clampedOffset v)).toInt = clampedOffset v := by
  unfold clampedOffset; split <;> decide

theorem clampOffsets_kofs {t : Table} (ht : t.wf = true) {i : Nat} : ∀ n, n ≤ 505 → i < n →
    (clampOffsets t n).kofs i = max (-4096) (min 4096 (t.kofs i))
  | 0, _, hi => by omega
  | n + 1, hn, hi => by
    have hwf := clampOffsets_wf ht n (by omega)
    rw [clampOffsets_succ]
    by_cases hlast : i = n
    · subst hlast
      split
      · next hout =>
        rw [Table.kofs, Table.i16_writeI16 _ (by omega) hwf, clampedOffset_toInt, clampedOffset]
        split <;> omega
      · next hin =>
        rw [clampOffsets_kofs_beyond ht (by omega) le_rfl]
        omega
    · have ih := clampOffsets_kofs ht n (by omega) (show i < n by omega)
      split
      · rw [← ih]
        exact Table.i16_congr (Table.read_writeI16_other _ (by omega) hwf (by omega) (by omega))
          (Table.read_writeI16_other _ (by omega) hwf (by omega) (by omega))
      · exact ih

theorem Table.nodes_lt (t : Table) : t.nodes < 256 := Table.readLE_one_lt t 6

theorem ProfileStore.commit_of_accepted {p : ProfileStore} (h : p.commitReason = none) :
    p.commit = { p with
      stagingTable := clampOffsets p.stagingTable p.stagingTable.nodes
      pendingSwap := true
      outcome := .accepted (needsClamp p.stagingTable p.stagingTable.nodes) } := by
  rw [ProfileStore.commit, h]

theorem ProfileStore.commit_of_rejected {p : ProfileStore} {r : CommitReason} (h : p.commitReason = some r) :
    p.commit = { p with outcome := .rejected r } := by
  rw [ProfileStore.commit, h]

/-- Settles O44: an accepted commit clamps the offsets of fewer than 256 nodes, each in its own two bytes (R86). -/
theorem acceptedOffsetsLieInRange : Obligations.AcceptedOffsetsLieInRange := by
  intro p hwf haccepted
  have hnodes := p.stagingTable.nodes_lt
  rw [ProfileStore.commit_of_accepted haccepted]
  exact ⟨fun i hi => clampOffsets_kofs hwf _ (by omega) hi, fun x hx => clampOffsets_read hwf _ (by omega) hx⟩

/-! ### The checks of Table 5.2 -/

theorem Table.nodes_eq (t : Table) : t.nodes = (t.read 6).toNat := t.readLE_one 6

theorem Table.irises_eq (t : Table) : t.irises = (t.read 7).toNat := t.readLE_one 7

/-- The sum of the words is 0 exactly if it is a multiple of 2^32 (R83). -/
theorem wordSum_eq_zero_iff (t : Table) (n : Nat) :
    wordSum t n = 0 ↔ ((List.range n).map fun k => t.readLE (4 * k) 4).sum % 2 ^ 32 = 0 := by
  rw [wordSum_eq, ← BitVec.toNat_inj, BitVec.toNat_ofNat]
  rfl

open scoped Classical in
/-- The reason is that of the first check of Table 5.2 that is not met (R79). -/
theorem ProfileStore.commitReason_eq (p : ProfileStore) :
    p.commitReason =
      if ¬p.meets .pending then some .pending
      else if ¬p.meets .tag then some .tag
      else if ¬p.meets .length then some .length
      else if ¬p.meets .coverage then some .coverage
      else if ¬p.meets .check then some .check
      else if ¬p.meets .counts then some .counts
      else if ¬p.meets .order then some .order
      else if ¬p.meets .radius then some .radius
      else none := by
  have hpending : p.pendingSwap = true ↔ ¬p.meets .pending := (Bool.not_eq_false _).symm.to_iff
  have hlength : p.stagingTable.declaredLength < 2 ∨ 128 < p.stagingTable.declaredLength ↔ ¬p.meets .length := by
    simp only [ProfileStore.meets, Table.declaredLength, Table.u16]
    omega
  have hcoverage : (!coveredBelow p.coverage p.stagingTable.declaredLength) = true ↔ ¬p.meets .coverage := by
    rw [Bool.not_eq_true', ← Bool.not_eq_true, coveredBelow_iff]; rfl
  have hcheck : wordSum p.stagingTable (8 * p.stagingTable.declaredLength) ≠ 0 ↔ ¬p.meets .check :=
    not_congr (wordSum_eq_zero_iff _ _)
  have hcounts : (p.stagingTable.nodes < 2 ∨ 32 < p.stagingTable.nodes ∨ p.stagingTable.irises < 1 ∨
      4 < p.stagingTable.irises ∨
      p.stagingTable.declaredLength * 32 < requiredSize p.stagingTable.nodes p.stagingTable.irises) ↔
      ¬p.meets .counts := by
    rw [Table.nodes_eq, Table.irises_eq, requiredSize]
    simp only [ProfileStore.meets, Table.declaredLength, Table.u16, not_and_or, not_le]
  have horder : (!(increasing p.stagingTable.focus p.stagingTable.nodes &&
      increasing p.stagingTable.iris p.stagingTable.irises)) = true ↔ ¬p.meets .order := by
    rw [Bool.not_eq_true', ← Bool.not_eq_true, Bool.and_eq_true, increasing_iff, increasing_iff, Table.nodes_eq,
      Table.irises_eq]
    rfl
  have hradius : p.stagingTable.u16 20 = 0 ∨ p.stagingTable.u16 22 = 0 ↔ ¬p.meets .radius := by
    simp only [ProfileStore.meets, Table.u16, not_and_or, ne_eq, not_not]
  unfold ProfileStore.commitReason
  exact if_ctx_congr hpending (fun _ => rfl) fun _ => if_ctx_congr Iff.rfl (fun _ => rfl) fun _ =>
    if_ctx_congr hlength (fun _ => rfl) fun _ => if_ctx_congr hcoverage (fun _ => rfl) fun _ =>
    if_ctx_congr hcheck (fun _ => rfl) fun _ => if_ctx_congr hcounts (fun _ => rfl) fun _ =>
    if_ctx_congr horder (fun _ => rfl) fun _ => if_ctx_congr hradius (fun _ => rfl) fun _ => rfl

theorem ProfileStore.commitReason_of_failsFirst {p : ProfileStore} {r : CommitReason} (h : p.failsFirst r) :
    p.commitReason = some r := by
  obtain ⟨hbefore, hfails⟩ := h
  rw [ProfileStore.commitReason_eq]
  cases r <;> simp (decide := true) only [hfails, hbefore, if_true, if_false, not_true, not_false_eq_true]

theorem ProfileStore.commitReason_of_meets {p : ProfileStore} (h : ∀ r, p.meets r) : p.commitReason = none := by
  rw [ProfileStore.commitReason_eq]
  simp [h]

theorem needsClamp_iff (t : Table) : ∀ n, needsClamp t n = true ↔ ∃ i, i < n ∧ (t.kofs i < -4096 ∨ 4096 < t.kofs i)
  | 0 => by simp [needsClamp]
  | n + 1 => by
    simp only [needsClamp, Bool.or_eq_true, decide_eq_true_eq, needsClamp_iff t n]
    constructor
    · rintro (hlast | ⟨i, hi, hout⟩)
      · exact ⟨n, by omega, hlast⟩
      · exact ⟨i, by omega, hout⟩
    · rintro ⟨i, hi, hout⟩
      by_cases hlast : i = n
      · exact .inl (hlast ▸ hout)
      · exact .inr ⟨i, by omega, hout⟩

/-! ### PROFILE_COMMIT -/

theorem exec_profileCommit (dt : Nat) (s : State) : exec (.profileCommit dt) s = execProfileCommit dt s := rfl

@[simp] theorem State.commitProfile_psto (s : State) : s.commitProfile.psto = s.psto.commit := rfl

theorem State.commitProfile_set (s : State) :
    s.commitProfile.evu.set =
      s.evu.set ||| (if s.psto.commitReason.isNone then Event.profileAccepted else Event.profileRejected).bit :=
  EventUnit.latch_set _ _ _

/-- Settles O43: the reason is that of the first failing check, and a commit that passes every check clamps (R79 to
R86). -/
theorem commitAcceptsOrRejectsWithAReason : Obligations.CommitAcceptsOrRejectsWithAReason := by
  intro dt s htakes
  have hset := (s.begin dt).commitProfile_set
  rw [State.begin_evu, State.begin_psto] at hset
  refine ⟨_, by rw [exec_profileCommit, execProfileCommit, exec_taken _ htakes], ?_⟩
  rw [State.takeWith_psto, State.takeWith_evu, State.commitProfile_psto, State.begin_psto, hset]
  refine ⟨fun r hfails => ?_, fun hmeets => ?_, State.takeWith_crec_of_kept rfl, ?_⟩
  · have hreason := ProfileStore.commitReason_of_failsFirst hfails
    rw [ProfileStore.commit_of_rejected hreason, hreason]
    exact ⟨rfl, rfl, rfl⟩
  · have hreason := ProfileStore.commitReason_of_meets hmeets
    rw [ProfileStore.commit_of_accepted hreason, hreason]
    exact ⟨rfl, rfl, _, rfl, needsClamp_iff _ _⟩
  · exact changes_takeWith (by decide)
      (changes_latch _ (by decide) (changes_setPsto _ (by decide) (State.changesOnly_refl _ _)))

end Sys2Proof.Machine
end

section
/-! PROOFS. The arbiter's timer and suspensions (R154 to R160), and the plain cases of bursts, responses and reads that come
back (chapters 1 and 9). -/

namespace Sys2Proof.Machine

/-! ### One value per requester -/

@[simp] theorem Four.get_set_self {α : Type} (f : Four α) (r : Requester) (v : α) : (f.set r v).get r = v := by
  cases r <;> rfl

theorem Four.get_set_other {α : Type} (f : Four α) {r q : Requester} (v : α) (h : q ≠ r) :
    (f.set r v).get q = f.get q := by
  cases r <;> cases q <;> first | rfl | exact absurd rfl h

/-! ### The grant and the timer (R156, R158) -/

theorem Arbiter.grant_of_owner {a : Arbiter} {o : Requester} (h : a.owner = some o) : a.grant = a := by
  rw [Arbiter.grant, h]

theorem Arbiter.grant_of_noWaiter {a : Arbiter} (hfree : a.owner = none) (hnone : ∀ q, a.waiting q = false) :
    a.grant = a := by
  have htied : a.tied = [] := List.eq_nil_iff_forall_not_mem.mpr fun r hr => by
    have hwait := (Arbiter.mem_tied.mp hr).1
    rw [hnone r] at hwait; cases hwait
  have hfind : (a.grants.find? fun r => a.tied.contains r) = none := by simp [htied]
  rw [Arbiter.grant, hfree, Arbiter.choose, hfind, htied]; rfl

/-- A requester above the owner waits (R158). -/
theorem Arbiter.challenged_iff {a : Arbiter} {o : Requester} (ho : a.owner = some o) :
    a.challenged = true ↔ ∃ q, a.waiting q = true ∧ a.prio.get o < a.prio.get q := by
  rw [Arbiter.challenged, ho]
  simp

theorem Arbiter.not_challenged_of_max {a : Arbiter} {o : Requester} (ho : a.owner = some o)
    (hmax : ∀ q, a.waiting q = true → a.prio.get q ≤ a.prio.get o) : a.challenged = false := by
  rw [← Bool.not_eq_true, Arbiter.challenged_iff ho]
  rintro ⟨q, hq, hlt⟩
  exact absurd (hmax q hq) (Nat.not_le.mpr hlt)

theorem Arbiter.settle_of_owner {a : Arbiter} {o : Requester} (ho : a.owner = some o) :
    a.settle = { a with timer := if a.preempt && a.challenged then some (a.timer.getD 0) else none } := by
  rw [Arbiter.settle, Arbiter.grant_of_owner ho, Arbiter.retime]

theorem Arbiter.settle_of_noWaiter {a : Arbiter} (hfree : a.owner = none) (hnone : ∀ q, a.waiting q = false) :
    a.settle = { a with timer := none } := by
  rw [Arbiter.settle, Arbiter.grant_of_noWaiter hfree hnone, Arbiter.retime, Arbiter.challenged, hfree]
  simp

/-- A free channel with a waiting requester goes to one of the highest priority, above which none waits: the timer stands
(R156, R158). -/
theorem Arbiter.settle_of_waiter {a : Arbiter} (hfree : a.owner = none) (h : ∃ q, a.waiting q = true) :
    ∃ w, a.waiting w = true ∧ (∀ q, a.waiting q = true → a.prio.get q ≤ a.prio.get w) ∧
      a.settle = { a with owner := some w, begun := false, timer := none,
                          grants := w :: a.grants.filter fun q => decide (q ≠ w) } := by
  obtain ⟨w, hchoose, htied⟩ := Arbiter.exists_choose h
  obtain ⟨hwait, hmax⟩ := Arbiter.mem_tied.mp htied
  refine ⟨w, hwait, hmax, ?_⟩
  have hgrant := Arbiter.grant_of_choose hfree hchoose
  have hcalm : a.grant.challenged = false := by
    rw [hgrant]; exact Arbiter.not_challenged_of_max rfl hmax
  rw [Arbiter.settle, Arbiter.retime, hcalm, hgrant]
  simp

/-- What the end of an event leaves, a second end leaves alone. -/
theorem Arbiter.settle_settle (a : Arbiter) : a.settle.settle = a.settle := by
  cases ho : a.owner with
  | some o =>
    have hown : a.settle.owner = some o := by rw [Arbiter.settle_of_owner ho]; exact ho
    have hchallenge : a.settle.challenged = a.challenged := by
      rw [Bool.eq_iff_iff, Arbiter.challenged_iff hown, Arbiter.challenged_iff ho, Arbiter.settle_of_owner ho]
      rfl
    rw [Arbiter.settle_of_owner hown, hchallenge, Arbiter.settle_of_owner ho]
    by_cases hon : (a.preempt && a.challenged) = true <;> simp [hon]
  | none =>
    by_cases hw : ∃ q, a.waiting q = true
    · obtain ⟨w, _, hmax, hsettle⟩ := Arbiter.settle_of_waiter ho hw
      have hown : a.settle.owner = some w := by rw [hsettle]
      have hcalm : a.settle.challenged = false := Arbiter.not_challenged_of_max hown (by rw [hsettle]; exact hmax)
      rw [Arbiter.settle_of_owner hown, hcalm, Bool.and_false, if_neg (by decide), hsettle]
    · have hnone : ∀ q, a.waiting q = false := fun q => by
        rw [← Bool.not_eq_true]; exact fun hq => hw ⟨q, hq⟩
      rw [Arbiter.settle_of_noWaiter ho hnone]
      exact Arbiter.settle_of_noWaiter (a := { a with timer := none }) ho hnone

theorem Arbiter.suspendIfDue_settle {a : Arbiter} (h : a.settle = a) : a.suspendIfDue.settle = a.suspendIfDue := by
  unfold Arbiter.suspendIfDue; split
  · exact a.suspend.settle_settle
  · exact h

/-- What `settle` leaves of the priorities, the enable, the runs and the rest of the ungranted arbiter. -/
theorem Arbiter.eq_of_ungranted {a b : Arbiter} (h : a.ungranted = b.ungranted) :
    a.prio = b.prio ∧ a.preempt = b.preempt ∧ a.latency = b.latency ∧ a.runs = b.runs ∧ a.issued = b.issued ∧
      a.errors = b.errors := by
  cases a; cases b
  simp only [Arbiter.ungranted, Arbiter.mk.injEq] at h
  obtain ⟨hp, he, hl, hr, _, _, _, _, hi, herr⟩ := h
  exact ⟨hp, he, hl, hr, hi, herr⟩

/-! ### The end of a command -/

@[simp] theorem State.settle_warb (s : State) : s.settle.warb = s.warb.settle := rfl

@[simp] theorem State.settle_rpw (s : State) : s.settle.rpw = s.rpw := s.changesOnly_settle .rpw (by decide)
@[simp] theorem State.settle_outputs (s : State) : s.settle.outputs = s.outputs :=
  s.changesOnly_settle .outputs (by decide)
@[simp] theorem State.settle_mept (s : State) : s.settle.mept = s.mept := s.changesOnly_settle .mept (by decide)
@[simp] theorem State.settle_psto (s : State) : s.settle.psto = s.psto := s.changesOnly_settle .psto (by decide)
@[simp] theorem State.settle_bpln (s : State) : s.settle.bpln = s.bpln := s.changesOnly_settle .bpln (by decide)
@[simp] theorem State.settle_lmem (s : State) : s.settle.lmem = s.lmem := s.changesOnly_settle .lmem (by decide)

@[simp] theorem State.takeWith_warb (s : State) (effect : State → State) :
    (s.takeWith effect).warb = (effect s).warb := State.setCrec_warb _ _

/-- An arbiter update that changes the grant state at most. -/
theorem changes_setWarb_ungranted {s t : State} {bs : List Block} (v : Arbiter) (hg : Block.grant ∈ bs)
    (hv : v.ungranted = t.warb.ungranted) (h : s.changesOnly t bs) : s.changesOnly (t.setWarb v) bs := by
  intro b hn
  have := h b hn
  cases b <;> first | exact this | exact hv.trans this | exact absurd hg hn

/-! ### PREEMPTION_SUSPEND (R159) -/

theorem exec_preemptionSuspend (dt : Nat) (s : State) :
    exec (.preemptionSuspend dt) s =
      .next (if (s.begin dt).warb.suspensionDue then ((s.begin dt).setWarb (s.begin dt).warb.suspend).settle
        else s.begin dt) := rfl

/-- A suspension hands the channel to a waiting requester of the highest priority (R156, R159). -/
theorem Arbiter.suspend_settle {a : Arbiter} (h : ∃ q, a.waiting q = true) :
    ∃ w, a.waiting w = true ∧ (∀ q, a.waiting q = true → a.prio.get q ≤ a.prio.get w) ∧
      a.suspend.settle = { a with owner := some w, begun := false, timer := none,
                                  grants := w :: a.grants.filter fun q => decide (q ≠ w) } :=
  Arbiter.settle_of_waiter (a := a.suspend) rfl h

/-- Settles O32: the suspension is due exactly for a run that has begun, and hands the channel to a requester above the
owner, who keeps the run (R159). -/
theorem suspendedOwnerKeepsItsRun : Obligations.SuspendedOwnerKeepsItsRun := by
  intro dt n o q run s howner hpass htimer hlat hbegun hrun hq hprio
  refine ⟨fun hstarted => ?_, fun hstarted => ?_⟩
  · have hdue : (s.begin dt).warb.suspensionDue = true := by
      rw [State.begin_warb, Arbiter.suspensionDue_iff]
      exact ⟨o, n, run, howner, htimer, hpass, hlat, hrun, hstarted, hbegun⟩
    obtain ⟨w, hw, hmax, hsettle⟩ := Arbiter.suspend_settle (a := s.warb) ⟨q, hq⟩
    refine ⟨_, w, by rw [exec_preemptionSuspend, hdue, if_pos rfl], ?_⟩
    rw [State.settle_warb, State.setWarb_warb, State.begin_warb, hsettle]
    refine ⟨rfl, rfl, hw, hprio.trans_le (hmax q hq), rfl, ?_⟩
    exact changes_settle (by decide) (by decide) (by decide) (changes_setWarb_ungranted _ (by decide)
      (by rw [State.begin_warb]; rfl) (State.changesOnly_refl _ _))
  · have hdue : (s.begin dt).warb.suspensionDue = false := by
      rw [State.begin_warb, ← Bool.not_eq_true, Arbiter.suspensionDue_iff]
      rintro ⟨o', _, run', ho', _, _, _, hr', hs', _⟩
      obtain rfl : o = o' := by rw [howner] at ho'; injection ho'
      obtain rfl : run = run' := by rw [hrun] at hr'; injection hr'
      rw [hstarted] at hs'; cases hs'
    refine ⟨_, by rw [exec_preemptionSuspend, hdue, if_neg (by decide)], State.changesOnly_refl _ _⟩

/-! ### BURST_BEGUN (R154, R155) -/

theorem exec_burstBegun (dt : Nat) (s : State) : exec (.burstBegun dt) s = execBurstBegun dt s := rfl

/-- The owner's next burst, where no suspension is due (R155, R159). -/
theorem Arbiter.nextBurst_eq {a : Arbiter} {r : Requester} {run : Run} {b : BurstPlan} {rest : List BurstPlan}
    (howner : a.owner = some r) (hrun : a.runs.get r = some run) (hbursts : run.bursts = b :: rest)
    (hdue : a.suspensionDue = false) : a.nextBurst = some (r, run, b, rest) := by
  simp [Arbiter.nextBurst, hdue, howner, hrun, hbursts]

/-- Settles O31: the run is marked started, and a withdrawal leaves a started run (R154). -/
theorem begunBurstCannotBeWithdrawn : Obligations.BegunBurstCannotBeWithdrawn := by
  intro dt r run b rest s howner hrun hbursts hdue
  have hnext : (s.begin dt).warb.nextBurst = some (r, run, b, rest) := by
    rw [State.begin_warb]; exact Arbiter.nextBurst_eq howner hrun hbursts hdue
  have hget : (s.warb.beginBurst r run).runs.get r = some { run with started := true } := Four.get_set_self _ _ _
  have hexec : exec (.burstBegun dt) s = .next ((s.begin dt).setWarb (s.warb.beginBurst r run)) := by
    rw [exec_burstBegun, execBurstBegun]
    rw [hnext, State.begin_warb]
  refine ⟨_, hexec, rfl, howner, ?_, ?_, ?_⟩
  · rw [State.setWarb_warb, hget, ← hbursts]
  · rw [State.setWarb_warb]
    exact (Arbiter.withdraw_run _ r _ hget).1 rfl
  · exact changes_setWarb _ (by decide) (by decide) (State.changesOnly_refl _ _)

/-! ### ARBITER (R160) -/

theorem exec_arbiter (dt : Nat) (p : Params) (s : State) : exec (.arbiter dt p) s = execArbiter dt p s := rfl

/-- The arbiter under the settings of an ARBITER record. -/
def Arbiter.under (a : Arbiter) (p : Params) : Arbiter :=
  { a with prio := p.priorities, preempt := p.preempt, latency := p.latency }

@[simp] theorem State.recordArbiter_warb (s : State) (p : Params) :
    (s.recordArbiter p).warb = (s.warb.under p).settle.suspendIfDue := rfl

theorem Params.priorities_eq (p : Params) :
    p.priorities = ⟨min 3 (p.p1.toNat % 256), min 3 (p.p1.toNat / 256 % 256), min 3 (p.p1.toNat / 65536 % 256),
      min 3 (p.p1.toNat / 16777216)⟩ := by
  rw [Params.priorities, clampNat_zero, clampNat_zero, clampNat_zero, clampNat_zero, byteOf_zero, byteOf_one, byteOf_two,
    byteOf_three]

theorem Params.preempt_eq (p : Params) : p.preempt = decide (p.p2.toNat % 256 ≠ 0) := by
  rw [Params.preempt, byteOf_zero]

theorem Params.latency_eq (p : Params) : p.latency = min 255 p.p3.toNat := clampNat_zero _ _

/-- With an owner at a boundary whose count has reached L, the channel passes on (R160 (2)). -/
theorem Arbiter.suspendIfDue_of_due {a : Arbiter} {o : Requester} (ho : a.owner = some o)
    (hcount : a.latency ≤ a.timer.getD 0) (habove : a.preempt = true ∧ a.challenged = true)
    (hboundary : o ≠ .pass ∧ a.begun = false ∧ ∃ run, a.runs.get o = some run ∧ run.started = true) :
    ∃ w, a.waiting w = true ∧ a.prio.get o < a.prio.get w ∧ (∀ q, a.waiting q = true → a.prio.get q ≤ a.prio.get w) ∧
      a.settle.suspendIfDue = { a with owner := some w, begun := false, timer := none,
                                       grants := w :: a.grants.filter fun q => decide (q ≠ w) } := by
  obtain ⟨hon, hchallenged⟩ := habove
  obtain ⟨hpass, hbegun, run, hrun, hstarted⟩ := hboundary
  have hsettle : a.settle = { a with timer := some (a.timer.getD 0) } := by
    rw [Arbiter.settle_of_owner ho, if_pos (by rw [hon, hchallenged]; rfl)]
  have hdue : a.settle.suspensionDue = true := by
    rw [hsettle, Arbiter.suspensionDue_iff]
    exact ⟨o, _, run, ho, rfl, hpass, hcount, hrun, hstarted, hbegun⟩
  obtain ⟨q, hq, hlt⟩ := (Arbiter.challenged_iff ho).mp hchallenged
  obtain ⟨w, hw, hmax, hgranted⟩ := Arbiter.suspend_settle (a := a.settle) ⟨q, by rw [hsettle]; exact hq⟩
  rw [hsettle] at hw hmax hgranted
  refine ⟨w, hw, hlt.trans_le (hmax q hq), hmax, ?_⟩
  rw [Arbiter.suspendIfDue, hdue, if_pos rfl, hsettle, hgranted]

/-- Otherwise the owner keeps the channel, with the timer as the requests call for. -/
theorem Arbiter.suspendIfDue_of_not {a : Arbiter} {o : Requester} (ho : a.owner = some o)
    (h : ¬((a.preempt = true ∧ a.challenged = true) ∧
      (o ≠ .pass ∧ a.begun = false ∧ ∃ run, a.runs.get o = some run ∧ run.started = true) ∧
      a.latency ≤ a.timer.getD 0)) : a.settle.suspendIfDue = a.settle := by
  refine if_neg ?_
  rw [Arbiter.settle_of_owner ho, Arbiter.suspensionDue_iff]
  rintro ⟨o', n, run, ho', hn, hpass, hlat, hrun, hstarted, hbegun⟩
  obtain rfl : o = o' := Option.some.inj (ho.symm.trans ho')
  dsimp only at hn
  split at hn
  · next hon =>
    obtain rfl := Option.some.inj hn
    exact h ⟨by simpa using hon, ⟨hpass, hbegun, run, hrun, hstarted⟩, hlat⟩
  · cases hn

/-- After an ARBITER record a second end of the command changes nothing. -/
theorem Arbiter.under_settle (a : Arbiter) : a.settle.suspendIfDue.settle = a.settle.suspendIfDue :=
  Arbiter.suspendIfDue_settle a.settle_settle

/-- A free channel stays free only while no requester waits, and the timer stands with preemption off. -/
theorem Arbiter.suspendIfDue_free {a : Arbiter} (ho : a.owner = none) (hfree : a.settle.suspendIfDue.owner = none) :
    ∀ q, a.waiting q = false := by
  by_contra hw
  obtain ⟨q, hq⟩ := not_forall.mp hw
  obtain ⟨w, _, _, hsettle⟩ := Arbiter.settle_of_waiter ho ⟨q, by simpa using hq⟩
  have hdue : a.settle.suspensionDue = false := by
    rw [← Bool.not_eq_true, hsettle, Arbiter.suspensionDue_iff]
    rintro ⟨_, _, _, _, hn, _⟩
    cases hn
  rw [Arbiter.suspendIfDue, hdue, if_neg (by decide), hsettle] at hfree
  cases hfree

theorem Arbiter.settle_timer_of_off {a : Arbiter} (h : a.preempt = false) : a.settle.timer = none := by
  have hoff : a.grant.preempt = false := by
    unfold Arbiter.grant
    split
    · exact h
    · split <;> exact h
  rw [Arbiter.settle, Arbiter.retime, hoff]
  rfl

theorem Arbiter.suspendIfDue_timer_of_off {a : Arbiter} (h : a.preempt = false) :
    a.settle.suspendIfDue.timer = none := by
  unfold Arbiter.suspendIfDue; split
  · obtain ⟨_, hpre, _⟩ := Arbiter.eq_of_ungranted a.settle_ungranted
    exact Arbiter.settle_timer_of_off (hpre.trans h)
  · exact Arbiter.settle_timer_of_off h

/-- Settles O49: the record settles the arbiter under its settings and suspends an owner that is due; the end of the command
settles it again, which changes nothing (R159, R160). -/
theorem arbiterRecordReplacesTheSettings : Obligations.ArbiterRecordReplacesTheSettings := by
  intro dt p s htakes
  have hwarb : ((s.begin dt).takeWith fun u => u.recordArbiter p).settle.warb =
      (s.warb.under p).settle.suspendIfDue := by
    rw [State.settle_warb, State.takeWith_warb, State.recordArbiter_warb, State.begin_warb, Arbiter.under_settle]
  obtain ⟨hprio, hpre, hlat, hruns, hissued, herrors⟩ :=
    Arbiter.eq_of_ungranted (((s.warb.under p).settle.suspendIfDue_ungranted).trans (s.warb.under p).settle_ungranted)
  refine ⟨_, by rw [exec_arbiter, execArbiter, exec_takenSettled _ htakes], ?_⟩
  rw [hwarb, hprio, hpre, hlat, hruns, hissued, herrors]
  refine ⟨Params.priorities_eq p, Params.preempt_eq p, Params.latency_eq p, rfl, rfl, rfl,
    fun o ho above boundary habove hboundary => ?_, fun ho hfree => Arbiter.suspendIfDue_free (a := s.warb.under p) ho hfree,
    fun hoff => Arbiter.suspendIfDue_timer_of_off hoff, ?_, ?_⟩
  · replace habove : above ↔ (s.warb.under p).preempt = true ∧ (s.warb.under p).challenged = true :=
      habove.trans (and_congr_right fun _ => (Arbiter.challenged_iff (a := s.warb.under p) ho).symm)
    refine ⟨fun ha hb hcount => ?_, fun hnot => ?_⟩
    · obtain ⟨w, hw, hlt, hmax, hgranted⟩ := Arbiter.suspendIfDue_of_due (a := s.warb.under p) ho hcount
        (habove.mp ha) (hboundary.mp hb)
      rw [hgranted]
      exact ⟨w, rfl, hw, hlt, hmax, rfl, rfl, rfl⟩
    · have hkeeps := Arbiter.suspendIfDue_of_not (a := s.warb.under p) ho fun ⟨ha, hb, hcount⟩ =>
        hnot ⟨habove.mpr ha, hboundary.mpr hb, hcount⟩
      rw [hkeeps, Arbiter.settle_of_owner (a := s.warb.under p) ho]
      refine ⟨ho, rfl, rfl, fun ha => ?_, fun hna => ?_⟩
      · obtain ⟨hon, hchallenged⟩ := habove.mp ha
        exact if_pos (by rw [hon, hchallenged]; rfl)
      · exact if_neg fun hboth => hna (habove.mpr (by simpa using hboth))
  · rw [State.settle_crec]; exact State.takeWith_crec_of_kept rfl
  · exact changes_settle (by decide) (by decide) (by decide) (changes_takeWith (by decide)
      (changes_setWarb _ (by decide) (by decide) (State.changesOnly_refl _ _)))

end Sys2Proof.Machine
end

section
/-! PROOFS. Reads that come back (R2, R16, R18), a PASS response (R12, R161), the line memory's split (R129) and the STATUS
report (R176). -/

namespace Sys2Proof.Machine

/-! ### Reads that come back (R2, R16, R18) -/

/-- A beat finds the oldest read of its tag behind those of other tags (R2). -/
theorem returnForwarded_skips {tag n : Nat} {post : List ReadOut} : ∀ pre : List ReadOut, (∀ x ∈ pre, x.tag ≠ tag) →
    returnForwarded tag (pre ++ ⟨tag, .forwarded n⟩ :: post) =
      (pre ++ (if n ≤ 1 then post else ⟨tag, .forwarded (n - 1)⟩ :: post), true)
  | [], _ => by simp [returnForwarded]
  | x :: pre, h => by
    rw [List.cons_append, returnForwarded, if_neg (h x (by simp)),
      returnForwarded_skips pre fun y hy => h y (by simp [hy])]
    rfl

theorem returnAnswer_skips {tag : Nat} {b : BeatData} {rest : List BeatData} {post : List ReadOut} :
    ∀ pre : List ReadOut, (∀ x ∈ pre, x.tag ≠ tag) →
      returnAnswer tag (pre ++ ⟨tag, .answering (b :: rest)⟩ :: post) =
        (pre ++ (if rest = [] then post else ⟨tag, .answering rest⟩ :: post), some b)
  | [], _ => by cases rest <;> simp [returnAnswer]
  | x :: pre, h => by
    rw [List.cons_append, returnAnswer, if_neg (h x (by simp)), returnAnswer_skips pre fun y hy => h y (by simp [hy])]
    rfl

theorem exec_memoryReadData (dt tag : Nat) (data : BeatData) (resp : Resp) (s : State) :
    exec (.memoryReadData dt tag data resp) s = execMemoryReadData dt tag data resp s := rfl

/-- Settles O16: the oldest read of the tag is found, and its beat passes on (R2). -/
theorem forwardedReadBeatPassesUpstream : Obligations.ForwardedReadBeatPassesUpstream := by
  intro dt tag n data resp pre post s hpart hreads hpre
  have hopen : (s.begin dt).portOpen = true := by simp [State.portOpen, hpart]
  have hexec : exec (.memoryReadData dt tag data resp) s =
      .next (((s.begin dt).setPb { s.pb with
        reads := pre ++ (if n ≤ 1 then post else ⟨tag, .forwarded (n - 1)⟩ :: post) }).emit (.readBeat tag data resp)) := by
    rw [exec_memoryReadData, execMemoryReadData, if_pos hopen, State.readBeatBack, State.begin_pb, hreads,
      returnForwarded_skips pre hpre, if_pos rfl]
  refine ⟨_, hexec, by simp, by simp, ?_⟩
  exact changes_emit _ (by decide) (changes_setPb _ (by decide) (State.changesOnly_refl _ _))

/-- Releasing reads adds to the reads out and to the ports, and leaves the responses (R16). -/
theorem releaseHolds_adds : ∀ (todo kept : List HoldEntry) (t : State), ∃ more os,
    (releaseHolds t kept todo).pb.reads = t.pb.reads ++ more ∧
      (releaseHolds t kept todo).outputs = t.outputs ++ os ∧
      (releaseHolds t kept todo).pb.responses = t.pb.responses
  | [], _, _ => ⟨[], [], by simp [releaseHolds], by simp [releaseHolds], rfl⟩
  | h :: todo, kept, t => by
    have hsend : ∃ more os, (t.sendRead h.read h.fate).pb.reads = t.pb.reads ++ more ∧
        (t.sendRead h.read h.fate).outputs = t.outputs ++ os ∧
        (t.sendRead h.read h.fate).pb.responses = t.pb.responses := by
      cases h.fate with
      | forward => exact ⟨_, _, rfl, rfl, rfl⟩
      | answer c => exact ⟨_, [], rfl, (List.append_nil _).symm, rfl⟩
    obtain ⟨more, os, hr, ho, hp⟩ := hsend
    unfold releaseHolds; split
    · obtain ⟨more', os', hr', ho', hp'⟩ := releaseHolds_adds todo kept (t.sendRead h.read h.fate)
      exact ⟨more ++ more', os ++ os', by rw [hr', hr, List.append_assoc], by rw [ho', ho, List.append_assoc],
        hp'.trans hp⟩
    · exact releaseHolds_adds todo (kept ++ [h]) t

theorem exec_answerBeatReturned (dt tag : Nat) (s : State) :
    exec (.answerBeatReturned dt tag) s = execAnswerBeatReturned dt tag s := rfl

/-- Settles O17: the oldest read of the tag is the answered one; reads released by its beat come behind (R16, R18). -/
theorem answerBeatReturnsWithOkay : Obligations.AnswerBeatReturnsWithOkay := by
  intro dt tag b rest pre post s hreads hpre
  have hexec : exec (.answerBeatReturned dt tag) s =
      .next (((s.begin dt).setPb { s.pb with
        reads := pre ++ (if rest = [] then post else ⟨tag, .answering rest⟩ :: post) }).emit
          (.readBeat tag b .okay)).releaseReads := by
    rw [exec_answerBeatReturned, execAnswerBeatReturned, State.answerBeatBack, State.begin_pb, hreads,
      returnAnswer_skips pre hpre]
  obtain ⟨more, os, hr, ho, hp⟩ := releaseHolds_adds _ [] (((s.begin dt).setPb { s.pb with
    reads := pre ++ (if rest = [] then post else ⟨tag, .answering rest⟩ :: post) }).emit (.readBeat tag b .okay))
  refine ⟨_, more, hexec, ?_, hr, hp, ?_⟩
  · exact (congrArg List.head? ho).trans rfl
  · exact changes_releaseReads (by decide) (by decide)
      (changes_emit _ (by decide) (changes_setPb _ (by decide) (State.changesOnly_refl _ _)))

/-! ### A PASS response (R12, R13, R161) -/

/-- Complete entries leave the head of the queue, each with its response at the port (R12). -/
theorem popResponses_pops : ∀ (l : List RespEntry) (t : State), ∃ os left, left <:+ l ∧
    (Sys2Proof.Machine.popResponses t l).pb = { t.pb with responses := left } ∧
      (Sys2Proof.Machine.popResponses t l).outputs = t.outputs ++ os
  | [], _ => ⟨[], [], List.suffix_rfl, rfl, (List.append_nil _).symm⟩
  | x :: l, t => by
    unfold Sys2Proof.Machine.popResponses
    split
    · next v _ =>
      obtain ⟨os, left, hleft, hpb, hout⟩ := popResponses_pops l (t.emit (.writeResponse x.write.tag v))
      exact ⟨.writeResponse x.write.tag v :: os, left, hleft.trans (List.suffix_cons _ _), hpb, by
        rw [hout, State.emit_outputs, List.append_assoc]; rfl⟩
    · exact ⟨[], x :: l, List.suffix_rfl, rfl, (List.append_nil _).symm⟩

theorem State.reofferAfterIdle_of_free {s : State} (h : s.pb.heldBy = none) : s.reofferAfterIdle = s :=
  if_neg (by rw [State.reofferDue, h]; exact Bool.false_ne_true)

theorem exec_memoryWriteResponse (dt tag : Nat) (resp : Resp) (s : State) :
    exec (.memoryWriteResponse dt tag resp) s = .next ((s.begin dt).memoryResponse tag resp) := rfl

theorem State.memoryResponse_of_issued {s : State} {tag : Nat} {r : Requester} {b : IssuedBurst} {bs : List IssuedBurst}
    (resp : Resp) (htag : requesterOf tag = some r) (hissued : s.warb.issued.get r = b :: bs) :
    s.memoryResponse tag resp =
      (((s.setWarb { s.warb with issued := s.warb.issued.set r bs }).handResponse b resp r).reofferAfterIdle).settle := by
  rw [State.memoryResponse, htag]
  dsimp only
  rw [hissued]

theorem completePass_head (resp : Resp) (w : UpWrite) (rest : List RespEntry) :
    completePass resp (⟨.passed, w, true, none⟩ :: rest) = ⟨.passed, w, true, some resp⟩ :: rest :=
  if_pos ⟨rfl, rfl⟩

/-- Settles O33: the head entry is completed, and it leaves first (R12, R13). -/
theorem passResponseReturnsUnchanged : Obligations.PassResponseReturnsUnchanged := by
  intro dt resp b bs w rest s hissued hresp hheld
  have hbegun : (s.begin dt).warb.issued.get .pass = b :: bs := by rw [State.begin_warb]; exact hissued
  set u := (s.begin dt).setWarb { s.warb with issued := s.warb.issued.set .pass bs } with hu
  have hpass : u.passResponse resp =
      Sys2Proof.Machine.popResponses
        ((u.setPb { s.pb with responses := ⟨.passed, w, true, some resp⟩ :: rest }).emit (.writeResponse w.tag resp))
          rest := by
    have hpb : u.pb = s.pb := s.begin_pb dt
    rw [State.passResponse, State.popResponses, State.setPb_pb, hpb, hresp, completePass_head]
    rfl
  obtain ⟨os, left, hleft, hpb, hout⟩ := popResponses_pops rest
    ((u.setPb { s.pb with responses := ⟨.passed, w, true, some resp⟩ :: rest }).emit (.writeResponse w.tag resp))
  rw [← hpass] at hpb hout
  have hfree : (u.passResponse resp).pb.heldBy = none := by rw [hpb]; exact hheld
  have hexec : exec (.memoryWriteResponse dt 0 resp) s = .next (u.passResponse resp).settle := by
    rw [exec_memoryWriteResponse, State.memoryResponse_of_issued resp rfl hbegun, State.begin_warb, ← hu]
    exact congrArg (fun v : State => Host.Outcome.next v.settle) (State.reofferAfterIdle_of_free hfree)
  have hblocks : u.changesOnly (u.passResponse resp) [.pb, .outputs] :=
    changes_popResponses (by decide) (by decide) _ (changes_setPb _ (by decide) (State.changesOnly_refl _ _))
  have hwarb : (u.passResponse resp).settle.warb.ungranted = u.warb.ungranted :=
    (Arbiter.settle_ungranted _).trans (hblocks .warb (by decide))
  obtain ⟨_, _, _, _, hissued', herrors⟩ := Arbiter.eq_of_ungranted hwarb
  refine ⟨_, hexec, ?_, hissued', herrors, ?_, ?_⟩
  · rw [State.settle_outputs, hout]; rfl
  · rw [State.settle_pb, hpb]; exact hleft
  · exact State.changesOnly_trans (changes_setWarb _ (by decide) (by decide) (State.changesOnly_refl _ _))
      (changes_settle (by decide) (by decide) (by decide) (State.changesOnly_mono hblocks (by decide)))

/-! ### LINE_MEMORY (R129, R130) -/

theorem exec_lineMemory (dt : Nat) (p : Params) (s : State) : exec (.lineMemory dt p) s = execLineMemory dt p s := rfl

theorem Params.share_eq (p : Params) : p.share = min 262144 p.p1.toNat / 4096 * 4096 := by
  rw [Params.share, clampNat_zero]

@[simp] theorem State.takeWith_lmem (s : State) (effect : State → State) :
    (s.takeWith effect).lmem = (effect s).lmem := State.setCrec_lmem _ _

@[simp] theorem State.ctx_takeWith (s : State) (effect : State → State) (c : Ctx) :
    (s.takeWith effect).ctx c = (effect s).ctx c := State.ctx_setCrec _ _ _

@[simp] theorem State.applySplit_lmem (s : State) (n : Nat) : (s.applySplit n).lmem = { s.lmem with share0 := n } := rfl

theorem State.ctx_redepth_self (s : State) (c : Ctx) :
    (s.redepth c).ctx c = (s.ctx c).redepth (shareOf s.lmem.share0 c) := by
  rw [State.redepth, State.ctx_latchIf, State.ctx_setCtx_self]

theorem State.ctx_redepth_other (s : State) {c d : Ctx} (h : d ≠ c) : (s.redepth c).ctx d = s.ctx d := by
  rw [State.redepth, State.ctx_latchIf, State.ctx_setCtx_other _ _ h]

/-- A split gives each context its depth and mode in effect for its share (R129, R130). -/
theorem State.ctx_applySplit (s : State) (n : Nat) : ∀ c, (s.applySplit n).ctx c = (s.ctx c).redepth (shareOf n c)
  | .ctx0 => by
    rw [State.applySplit, State.ctx_redepth_other _ (by decide), State.ctx_redepth_self]; rfl
  | .ctx1 => by
    rw [State.applySplit, State.ctx_redepth_self, State.ctx_redepth_other _ (by decide)]; rfl

theorem Context.redepth_depth (c : Context) (share : Nat) :
    (c.redepth share).depth = min 128 (share / c.settings.width) := rfl

theorem State.applySplit_crec (s : State) (n : Nat) : (s.applySplit n).crec = s.crec := rfl

/-- The blocks of a split. -/
theorem changes_applySplit_only {s t : State} {bs : List Block} (n : Nat)
    (hb : ∀ b ∈ [Block.lmem, .ctx0, .ctx1, .stall0, .stall1, .evu], b ∈ bs) (h : s.changesOnly t bs) :
    s.changesOnly (t.applySplit n) bs :=
  have hevu := hb .evu (by decide)
  changes_latchIf _ _ hevu (changes_setCtx .ctx1 _ (hb .ctx1 (by decide)) (hb .stall1 (by decide))
    (changes_latchIf _ _ hevu (changes_setCtx .ctx0 _ (hb .ctx0 (by decide)) (hb .stall0 (by decide))
      (changes_setLmem _ (hb .lmem (by decide)) h))))

/-- Settles O39: with both contexts resting both depths follow the split; else it is held (R129, R130). -/
theorem lineMemorySplitsNowOrLater : Obligations.LineMemorySplitsNowOrLater := by
  intro dt p s htakes
  refine ⟨_, by rw [exec_lineMemory, execLineMemory, exec_taken _ htakes], ?_⟩
  by_cases hrest : s.bothResting = true
  · have heffect : (s.begin dt).recordLineMemory p = (s.begin dt).applySplit p.share :=
      if_pos (by rw [State.begin_bothResting, hrest])
    refine ⟨State.takeWith_crec_of_kept (by rw [heffect, State.applySplit_crec]), fun _ => ⟨?_, ?_, ?_, ?_⟩,
      fun h => absurd hrest (by rw [h]; decide)⟩
    · rw [State.takeWith_lmem, heffect, State.applySplit_lmem, State.begin_lmem, Params.share_eq]
    · rw [State.ctx_takeWith, heffect, State.ctx_applySplit, State.ctx_begin, Params.share_eq, Context.redepth_depth, shareOf]
    · rw [State.ctx_takeWith, heffect, State.ctx_applySplit, State.ctx_begin, Params.share_eq, Context.redepth_depth, shareOf]
    · refine changes_takeWith (by decide) ?_
      rw [heffect]
      exact changes_applySplit_only _ (by decide) (State.changesOnly_refl _ _)
  · have heffect : (s.begin dt).recordLineMemory p = (s.begin dt).setLmem { s.lmem with held := some p.share } := by
      rw [State.recordLineMemory, State.begin_bothResting, if_neg hrest, State.begin_lmem]
    refine ⟨State.takeWith_crec_of_kept (by rw [heffect]; rfl), fun h => absurd h hrest, fun _ => ⟨?_, ?_⟩⟩
    · rw [State.takeWith_lmem, heffect, State.setLmem_lmem, Params.share_eq]
    · refine changes_takeWith (by decide) ?_
      rw [heffect]
      exact changes_setLmem _ (by decide) (State.changesOnly_refl _ _)

/-! ### STATUS_REQUEST (R176, R178) -/

theorem exec_statusRequest (dt : Nat) (s : State) : exec (.statusRequest dt) s = execStatusRequest dt s := rfl

theorem presentFirst_reports (addr : Nat) : ∀ q : List QueuedReport,
    (presentFirst addr q).map (fun y => y.report) = q.map fun y => y.report
  | [] => rfl
  | x :: q => by unfold presentFirst; split <;> simp [presentFirst_reports addr q]

/-- A presentation changes the stage of a record and the next slot at most (R177). -/
theorem State.presentReport_rpw (s : State) :
    s.presentReport.rpw.queue.map (fun y => y.report) = s.rpw.queue.map (fun y => y.report) ∧
      s.presentReport.rpw.nextSeq = s.rpw.nextSeq ∧ s.presentReport.rpw.dropped = s.rpw.dropped := by
  unfold State.presentReport; split
  · exact ⟨presentFirst_reports _ _, rfl, rfl⟩
  · exact ⟨rfl, rfl, rfl⟩

@[simp] theorem State.presentReport_evu (s : State) : s.presentReport.evu = s.evu := by
  unfold State.presentReport; split <;> rfl

theorem State.generate_off {s : State} (r : Report) (h : s.rpw.slots = 0) : s.generate r = s := if_pos h

theorem State.generate_room {s : State} (r : Report) (hon : s.rpw.slots ≠ 0) (hroom : s.rpw.queue.length < 2) :
    s.generate r =
      (s.setRpw { s.rpw with queue := s.rpw.queue ++ [⟨r, .waiting⟩], nextSeq := s.rpw.nextSeq + 1 }).presentReport := by
  rw [State.generate, if_neg hon, State.queueReport, if_pos hroom]

theorem State.generate_full {s : State} (r : Report) (hon : s.rpw.slots ≠ 0) (hfull : 2 ≤ s.rpw.queue.length) :
    s.generate r =
      (s.setRpw { s.rpw with dropped := s.rpw.dropped + 1, nextSeq := s.rpw.nextSeq + 1 }).latch .reportDropped := by
  rw [State.generate, if_neg hon, State.queueReport, if_neg (Nat.not_lt.mpr hfull)]

/-- A generated report takes a sequence number, unless the ring is off (R176). -/
theorem State.generate_nextSeq (s : State) (r : Report) :
    (s.generate r).rpw.nextSeq = if s.rpw.slots = 0 then s.rpw.nextSeq else s.rpw.nextSeq + 1 := by
  by_cases hon : s.rpw.slots = 0
  · rw [State.generate_off r hon, if_pos hon]
  · rw [if_neg hon]
    rcases Nat.lt_or_ge s.rpw.queue.length 2 with hroom | hfull
    · rw [State.generate_room r hon hroom]; exact (State.presentReport_rpw _).2.1
    · rw [State.generate_full r hon hfull]; rfl

/-- A report that finds room stands last in the queue (R176). -/
theorem State.generate_last {s : State} (r : Report) (hon : s.rpw.slots ≠ 0) (hroom : s.rpw.queue.length < 2) :
    (∃ q, (s.generate r).rpw.queue.getLast? = some q ∧ q.report = r) ∧
      (s.generate r).rpw.queue.length = s.rpw.queue.length + 1 ∧ (s.generate r).rpw.dropped = s.rpw.dropped ∧
      (s.generate r).evu = s.evu := by
  rw [State.generate_room r hon hroom]
  set u := s.setRpw { s.rpw with queue := s.rpw.queue ++ [⟨r, .waiting⟩], nextSeq := s.rpw.nextSeq + 1 }
  obtain ⟨hreports, _, hdropped⟩ := State.presentReport_rpw u
  have hlast : (u.presentReport.rpw.queue.map fun y => y.report).getLast? = some r := by
    rw [hreports, show u.rpw.queue = s.rpw.queue ++ [⟨r, .waiting⟩] from rfl]; simp
  have hlength := congrArg List.length hreports
  rw [List.getLast?_map, Option.map_eq_some_iff] at hlast
  simp only [List.length_map] at hlength
  exact ⟨hlast, hlength.trans (by simp [u]), hdropped, State.presentReport_evu u⟩

theorem State.generate_crec (s : State) (r : Report) : (s.generate r).crec = s.crec :=
  changes_generate (bs := [.rpw, .warb, .evu]) r (by decide) (by decide) (by decide) (State.changesOnly_refl _ _) .crec
    (by decide)

/-- Settles O50: the ring off, a queue with room and a full queue are the three cases of a generation (R176). -/
theorem statusRequestGeneratesOrDrops : Obligations.StatusRequestGeneratesOrDrops := by
  intro dt s htakes
  set u := s.begin dt with hu
  have hrpw : u.rpw = s.rpw := s.begin_rpw dt
  have hevu : u.evu = s.evu := s.begin_evu dt
  refine ⟨_, by rw [exec_statusRequest, execStatusRequest, exec_takenSettled _ htakes], ?_⟩
  rw [State.settle_crec, State.settle_rpw, State.settle_evu, State.takeWith_rpw, State.takeWith_evu, State.recordStatus,
    ← hu]
  refine ⟨State.takeWith_crec_of_kept (State.generate_crec _ _), fun hoff => ?_, fun hon => ?_, fun hon hroom => ?_,
    fun hon hfull => ?_, ?_⟩
  · rw [State.generate_off _ (by rw [hrpw, hoff])]
    exact ⟨hrpw, hevu⟩
  · rw [State.generate_nextSeq, hrpw, if_neg hon]
  · obtain ⟨⟨q, hq, hreport⟩, hlength, hdropped, hset⟩ := State.generate_last (s := u) u.statusReport (by rwa [hrpw])
      (by rwa [hrpw])
    refine ⟨⟨q, hq, ?_⟩, by rw [hlength, hrpw], by rw [hdropped, hrpw], hset.trans hevu⟩
    rw [hreport]
    exact ⟨rfl, congrArg ReportWriter.nextSeq hrpw, rfl, congrArg EventUnit.set hevu,
      State.begin_time_of_takesRecords dt htakes⟩
  · rw [State.generate_full _ (by rwa [hrpw]) (by rwa [hrpw]), State.latch_evu, EventUnit.latch_set, State.latch_rpw,
      State.setRpw_rpw, State.setRpw_evu, hrpw, hevu]
    exact ⟨rfl, rfl, rfl⟩
  · exact changes_settle (by decide) (by decide) (by decide) (changes_takeWith (by decide)
      (changes_generate _ (by decide) (by decide) (by decide) (State.changesOnly_refl _ _)))

end Sys2Proof.Machine
end

section
/-! PROOFS. Arithmetic of the estimator (R47) and of the depth clamp (R118, R119). -/

namespace Sys2Proof.Machine

/-! ### Interpolation (R47) -/

/-- A time later than the oldest sample and not later than the newest lies within a pair of neighbours, over which the
estimate is interpolated (R47). -/
theorem interpolate_between {T : Time} {newest : Sample} : ∀ (rest : List Sample) (first : Sample),
    risingTimes (first :: rest) = true → (first :: rest).getLast? = some newest → later T first.t = true →
      later T newest.t = false →
      ∃ pre a b post, first :: rest = pre ++ a :: b :: post ∧ later T a.t = true ∧ later T b.t = false ∧
        later b.t a.t = true ∧ interpolate (first :: rest) T = some (interpolateBetween a b T)
  | [], first, _, hlast, hfirst, hnewest => by
    obtain rfl : first = newest := by simpa using hlast
    rw [hfirst] at hnewest; cases hnewest
  | b :: rest, first, hrise, hlast, hfirst, hnewest => by
    obtain ⟨hlater, hrest⟩ : later b.t first.t = true ∧ risingTimes (b :: rest) = true := by
      simpa [risingTimes] using hrise
    by_cases hb : later T b.t = true
    · obtain ⟨pre, x, y, post, hsplit, hx, hy, hxy, hval⟩ :=
        interpolate_between rest b hrest (by simpa using hlast) hb hnewest
      refine ⟨first :: pre, x, y, post, by rw [hsplit]; rfl, hx, hy, hxy, ?_⟩
      rw [interpolate, hfirst, hb]
      exact hval
    · rw [Bool.not_eq_true] at hb
      exact ⟨[], first, b, rest, rfl, hfirst, hb, hlater, by rw [interpolate, hfirst, hb]; rfl⟩

theorem later_eq (a b : Time) : later a b = decide (0 < (a - b).toInt) := rfl

/-- Within a pair of neighbours the time since the first is positive and at most the time between them: no difference
wraps (section 4.2). -/
theorem signedDiff_within {a b T : Time} (hab : later b a = true) (ha : later T a = true) (hb : later T b = false) :
    0 < signedDiff T a ∧ signedDiff T a ≤ signedDiff b a := by
  rw [later_eq, decide_eq_true_eq] at hab ha
  rw [later_eq, decide_eq_false_iff_not, not_lt] at hb
  rw [signedDiff, signedDiff]
  have hT : T - b = (T - a) - (b - a) := by ring
  rw [hT, BitVec.toInt_sub] at hb
  have h1 := BitVec.toInt_lt (x := T - a)
  have h2 := BitVec.toInt_lt (x := b - a)
  rw [Int.bmod_eq_of_le_mul_two (by omega) (by omega)] at hb
  omega

/-- A weighted step of at most the whole way from one value to another ends between the two. -/
theorem between_of_step {p q x d : Int} (hx : 0 ≤ x) (hd : 0 < d) (hxd : x ≤ d) :
    min p q ≤ p + ((q - p) * x + d / 2) / d ∧ p + ((q - p) * x + d / 2) / d ≤ max p q := by
  have hhalf : 0 ≤ d / 2 ∧ d / 2 < d := by omega
  have hlow : ∀ n : Int, n * d ≤ (q - p) * x → n ≤ ((q - p) * x + d / 2) / d := fun n h =>
    (Int.le_ediv_iff_mul_le hd).mpr (by omega)
  have hhigh : ∀ n : Int, (q - p) * x ≤ n * d → ((q - p) * x + d / 2) / d ≤ n := fun n h =>
    Int.lt_add_one_iff.mp ((Int.ediv_lt_iff_lt_mul hd).mpr (by rw [add_mul, one_mul]; omega))
  rcases le_total p q with h | h
  · have h0 := hlow 0 (by rw [zero_mul]; exact mul_nonneg (by omega) hx)
    have h1 := hhigh (q - p) (mul_le_mul_of_nonneg_left hxd (by omega))
    omega
  · have h0 := hlow (q - p) (mul_le_mul_of_nonpos_left hxd (by omega))
    have h1 := hhigh 0 (by rw [zero_mul]; exact mul_nonpos_of_nonpos_of_nonneg (by omega) hx)
    omega

theorem clampFocus_of_range {v : Int} (h0 : 0 ≤ v) (h1 : v ≤ 65535) : (clampFocus v : Int) = v := by
  rw [clampFocus, clampInt, if_neg (by omega), if_neg (by omega)]
  omega

/-- Settles O24: the pair around the time exists, and the interpolation between it ends between its foci (R47, R49). -/
theorem interpolationLiesBetweenNeighbours : Obligations.InterpolationLiesBetweenNeighbours := by
  intro first rest newest T hx hrise hlast hfirst hnewest hfoci
  obtain ⟨pre, a, b, post, hsplit, ha, hb, hab, hval⟩ := interpolate_between rest first hrise hlast hfirst hnewest
  have hpredict : predict (first :: rest) T hx = ⟨clampFocus (interpolateBetween a b T), .interpolated⟩ := by
    rw [predict, hfirst, hval]; rfl
  obtain ⟨hpos, hle⟩ := signedDiff_within hab ha hb
  obtain ⟨hlo, hhi⟩ := between_of_step (p := a.focus) (q := b.focus) hpos.le (hpos.trans_le hle) hle
  have hfa : a.focus ≤ 65535 := hfoci a (by rw [hsplit]; simp)
  have hfb : b.focus ≤ 65535 := hfoci b (by rw [hsplit]; simp)
  have hfocus : (clampFocus (interpolateBetween a b T) : Int) = interpolateBetween a b T :=
    clampFocus_of_range (le_trans (by omega) hlo) (hhi.trans (by omega))
  rw [hpredict]
  refine ⟨rfl, pre, a, b, post, hsplit, ha, hb, ?_, ?_⟩
  · have hmin : min (a.focus : Int) b.focus ≤ clampFocus (interpolateBetween a b T) := hlo.trans_eq hfocus.symm
    dsimp only
    omega
  · have hmax : (clampFocus (interpolateBetween a b T) : Int) ≤ max (a.focus : Int) b.focus := hfocus.le.trans hhi
    dsimp only
    omega

/-! ### The depth clamp (R118, R119) -/

/-- The vertical reach is at least 1, and no row centre lies further from the centre than it (R118). -/
theorem verticalReach_spec (c64 : Int) {h y : Nat} (hy : y < h) :
    1 ≤ verticalReach c64 h ∧ |64 * (y : Int) - c64| ≤ 64 * verticalReach c64 h := by
  have hreach : 1 ≤ verticalReach c64 h ∧ ceilDivInt c64 64 ≤ verticalReach c64 h ∧
      (h : Int) - 1 - c64 / 64 ≤ verticalReach c64 h := by
    unfold verticalReach
    dsimp only
    split <;> omega
  obtain ⟨hone, hceil, hfloor⟩ := hreach
  rw [ceilDivInt] at hceil
  refine ⟨hone, abs_le.mpr ⟨?_, ?_⟩⟩ <;> omega

/-- A clamped ratio deviates from unity by at most the bound. -/
theorem clampInt_deviates {lo hi x : Int} (h : lo ≤ hi) : lo ≤ clampInt lo hi x ∧ clampInt lo hi x ≤ hi := by
  unfold clampInt; split
  · omega
  · split <;> omega

/-- The source of a row moves by the row's distance from the centre times the deviation from unity (R119). -/
theorem sourceOf_sub (c64 ka : Int) (y : Nat) :
    sourceOf c64 ka y - 64 * (y : Int) = ((64 * (y : Int) - c64) * (ka - 65536) + 32768) / 65536 := by
  have h : (64 * (y : Int) - c64) * ka + 32768 =
      (64 * (y : Int) - c64) * (ka - 65536) + 32768 + (64 * (y : Int) - c64) * 65536 := by ring
  rw [sourceOf, h, Int.add_mul_ediv_right _ _ (by decide)]
  ring

theorem deriveGeometry_ka_deviates (c : Context) (entry : Nat) (r : BandRecord) (hdepth : 3 ≤ c.depth) :
    |(deriveGeometry c entry r).ka - 65536| ≤
      allowedDeviation c.depth (verticalReach (deriveGeometry c entry r).cyc64 c.height) := by
  have hdev : ∀ m : Int, 0 < m → 0 ≤ allowedDeviation c.depth m := fun m hm =>
    Int.ediv_nonneg (by omega) hm.le
  have hreach : 0 < verticalReach (deriveGeometry c entry r).cyc64 c.height := by
    unfold verticalReach; dsimp only; split <;> omega
  have hnonneg := hdev _ hreach
  rw [show (deriveGeometry c entry r).ka = if (c.mode = .correct ∨ c.mode = .geometryOnly) ∧ r.kind ≠ .noProfile then
      clampInt (65536 - allowedDeviation c.depth (verticalReach (deriveGeometry c entry r).cyc64 c.height))
        (65536 + allowedDeviation c.depth (verticalReach (deriveGeometry c entry r).cyc64 c.height)) r.k
    else 65536 from rfl]
  split
  · have := clampInt_deviates (x := r.k) (show
      65536 - allowedDeviation c.depth (verticalReach (deriveGeometry c entry r).cyc64 c.height) ≤
        65536 + allowedDeviation c.depth (verticalReach (deriveGeometry c entry r).cyc64 c.height) by omega)
    exact abs_le.mpr (by omega)
  · simpa using hnonneg

/-- Settles O28: a distance of at most 64·M times a deviation of at most (D−3)·65536/M moves a source by at most 64·(D−3)
(R118, R119). -/
theorem depthClampKeepsStageDWithinDepth : Obligations.DepthClampKeepsStageDWithinDepth := by
  intro c entry y r hdepth hy
  obtain ⟨hone, hdist⟩ := verticalReach_spec (deriveGeometry c entry r).cyc64 hy
  have hka := deriveGeometry_ka_deviates c entry r hdepth
  set g := deriveGeometry c entry r
  set m := verticalReach g.cyc64 c.height
  have hdev : allowedDeviation c.depth m * m ≤ ((c.depth : Int) - 3) * 65536 := Int.ediv_mul_le _ (by omega)
  have hprod : |(64 * (y : Int) - g.cyc64) * (g.ka - 65536)| ≤ 64 * ((c.depth : Int) - 3) * 65536 := by
    calc |(64 * (y : Int) - g.cyc64) * (g.ka - 65536)|
        = |64 * (y : Int) - g.cyc64| * |g.ka - 65536| := abs_mul _ _
      _ ≤ 64 * m * allowedDeviation c.depth m := mul_le_mul hdist hka (abs_nonneg _) (by omega)
      _ = 64 * (allowedDeviation c.depth m * m) := by ring
      _ ≤ 64 * (((c.depth : Int) - 3) * 65536) := by omega
      _ = 64 * ((c.depth : Int) - 3) * 65536 := by ring
  rw [show g.ys64 y = sourceOf g.cyc64 g.ka y from rfl, sourceOf_sub]
  obtain ⟨hlo, hhi⟩ := abs_le.mp hprod
  generalize (64 * (y : Int) - g.cyc64) * (g.ka - 65536) = x at hlo hhi
  exact abs_le.mpr (by omega)

end Sys2Proof.Machine
end

section
/-! PROOFS. What planning keeps (R95 to R99, R141 to R143): the settings and the states of the contexts, their frames up to
a band record and rows released below e, the entries up to their slots, the planner's settings, and of the arbiter all but
fresh EMIT runs. A context that asks for nothing is left alone altogether. -/

namespace Sys2Proof.Machine

/-! ### A frame and a context while bands are planned -/

/-- A frame without its low held rows, its band record, the counts of bands and its stall timer. -/
def Frame.core (f : Frame) : Frame :=
  { f with
    low := 0
    held := []
    record := none
    stall := none
    account := { f.account with deferred := 0, waitedOut := 0, clamped := 0 } }

/-- Frame `f` becomes `g` as bands are planned: rows may leave at the lower end of the held run, below e (R143). -/
def Frame.plansTo (f g : Frame) : Prop :=
  g.core = f.core ∧ ∃ k, g.low = f.low + k ∧ g.held = f.held.drop k ∧ (k = 0 ∨ f.low + k ≤ f.e)

theorem Frame.e_of_core {f g : Frame} (h : g.core = f.core) : g.e = f.e := by
  simpa [Frame.core] using congrArg Frame.e h

theorem Frame.plansTo_refl (f : Frame) : f.plansTo f := ⟨rfl, 0, rfl, rfl, .inl rfl⟩

theorem Frame.plansTo_trans {f g h : Frame} (hfg : f.plansTo g) (hgh : g.plansTo h) : f.plansTo h := by
  obtain ⟨hc, k, hlow, hheld, hk⟩ := hfg
  obtain ⟨hc', k', hlow', hheld', hk'⟩ := hgh
  have he := Frame.e_of_core hc
  refine ⟨hc'.trans hc, k + k', by omega, by rw [hheld', hheld, List.drop_drop], by omega⟩

/-- Releasing rows below a bound of at most e. -/
theorem Frame.plansTo_releaseBelow {f g : Frame} (bound : Nat) (hb : bound ≤ f.e) (h : f.plansTo g) :
    f.plansTo (g.releaseBelow bound) := by
  refine Frame.plansTo_trans h ⟨rfl, min (bound - g.low) g.held.length, rfl, rfl, ?_⟩
  have he := Frame.e_of_core h.1
  omega

theorem Frame.plansTo_obtain (f : Frame) (r : BandRecord) (g : Geometry) (fresh : Bool) :
    f.plansTo (f.obtain r g fresh) := by
  have hfirst : f.plansTo
      { f with record := some r, account := if fresh then f.account.obtain r g.clamped else f.account } :=
    ⟨by cases fresh <;> rfl, 0, rfl, rfl, .inl rfl⟩
  exact Frame.plansTo_releaseBelow _ (by omega) hfirst

/-- A context without its frame and its geometry. -/
def Context.core (c : Context) : Context := { c with frame := none, geo := none }

/-- Context `c` becomes `d` as bands are planned; without a frame it does not change. -/
structure Context.PlansTo (c d : Context) : Prop where
  core : d.core = c.core
  noFrame : c.frame = none → d = c
  frame : ∀ f, c.frame = some f → ∃ g, d.frame = some g ∧ f.plansTo g

theorem Context.plansTo_refl (c : Context) : c.PlansTo c := ⟨rfl, fun _ => rfl, fun f hf => ⟨f, hf, f.plansTo_refl⟩⟩

theorem Context.plansTo_trans {c d e : Context} (h : c.PlansTo d) (k : d.PlansTo e) : c.PlansTo e where
  core := k.core.trans h.core
  noFrame hc := by
    obtain rfl := h.noFrame hc
    exact k.noFrame hc
  frame f hf := by
    obtain ⟨g, hg, hfg⟩ := h.frame f hf
    obtain ⟨x, hx, hgx⟩ := k.frame g hg
    exact ⟨x, hx, Frame.plansTo_trans hfg hgx⟩

section Core

variable {c d : Context} (h : c.PlansTo d)
include h

theorem Context.PlansTo.state_eq : d.state = c.state :=
  (congrArg Context.state h.core :)
theorem Context.PlansTo.settings_eq : d.settings = c.settings :=
  (congrArg Context.settings h.core :)
theorem Context.PlansTo.height_eq : d.height = c.height :=
  (congrArg Context.height h.core :)

end Core

/-! ### Entries and the arbiter while bands are planned -/

/-- An entry with its slots emptied. -/
def EpochEntry.blank (e : EpochEntry) : EpochEntry := { e with slots := e.slots.map fun _ => none }

theorem EpochEntry.blank_set (e : EpochEntry) (b : Nat) (x : Option BandRecord) :
    ({ e with slots := e.slots.set b x } : EpochEntry).blank = e.blank := by
  have hslots : (e.slots.set b x).map (fun _ => (none : Option BandRecord)) = e.slots.map fun _ => none := by
    rw [List.map_set, List.map_const', List.set_replicate_self]
  unfold EpochEntry.blank
  rw [hslots]

/-- Arbiter `a` becomes `b` as bands are planned: fresh EMIT runs may be presented (R142). -/
structure Arbiter.PlansTo (a b : Arbiter) : Prop where
  rest : { b with runs := a.runs } = a
  runs : ∀ q, b.runs.get q = a.runs.get q ∨
    q ≠ .pass ∧ q ≠ .report ∧ ∃ run, b.runs.get q = some run ∧ run.started = false

theorem Arbiter.plansTo_refl (a : Arbiter) : a.PlansTo a := ⟨rfl, fun _ => .inl rfl⟩

theorem Arbiter.plansTo_trans {a b c : Arbiter} (h : a.PlansTo b) (k : b.PlansTo c) : a.PlansTo c where
  rest := by
    have hb : b = { a with runs := b.runs } := by rw [← h.rest]
    have hc : c = { b with runs := c.runs } := by rw [← k.rest]
    rw [hc, hb]
  runs q := by
    rcases k.runs q with hq | hq
    · rw [hq]; exact h.runs q
    · exact .inr hq

theorem requesterFor_emits (c : Ctx) : requesterFor c ≠ .pass ∧ requesterFor c ≠ .report := by cases c <;> decide

theorem Arbiter.plansTo_request (a : Arbiter) (c : Ctx) (run : Run) (h : run.started = false) :
    a.PlansTo (a.request (requesterFor c) run) where
  rest := rfl
  runs q := by
    by_cases hq : q = requesterFor c
    · subst hq
      exact .inr ⟨(requesterFor_emits c).1, (requesterFor_emits c).2, run, Four.get_set_self _ _ _, h⟩
    · exact .inl (Four.get_set_other _ _ hq)

/-! ### The relation -/

/-- `t` comes from `s` by planning, where the contexts in `P` may have obtained bands they had not asked for. -/
structure Plans (P : Ctx → Prop) (s t : State) : Prop where
  ctx : ∀ c, (s.ctx c).PlansTo (t.ctx c)
  quiet : ∀ c, ¬P c → s.bpln.requests.get c = none → t.bpln.requests.get c = none ∧ t.ctx c = s.ctx c
  motion : t.bpln.settings = s.bpln.settings
  entries : t.mept.entries.map EpochEntry.blank = s.mept.entries.map EpochEntry.blank
  shot : t.mept.shot = s.mept.shot
  nextId : t.mept.nextId = s.mept.nextId
  warb : s.warb.PlansTo t.warb

section Planning

variable {P : Ctx → Prop} {s t u : State}

theorem plans_refl (P : Ctx → Prop) (s : State) : Plans P s s where
  ctx c := (s.ctx c).plansTo_refl
  quiet _ _ h := ⟨h, rfl⟩
  motion := rfl
  entries := rfl
  shot := rfl
  nextId := rfl
  warb := s.warb.plansTo_refl

/-- A context may change where it is in `P` or had asked for a band. -/
def Asks (P : Ctx → Prop) (s : State) (c : Ctx) : Prop := P c ∨ s.bpln.requests.get c ≠ none

theorem asks_of_request {c : Ctx} (h : Plans P s t) (hc : t.bpln.requests.get c ≠ none) : Asks P s c := by
  by_contra hn
  obtain ⟨hP, hr⟩ := not_or.mp hn
  exact hc (h.quiet c hP (not_not.mp hr)).1

theorem plans_setCtx {c : Ctx} {v : Context} (hc : Asks P s c) (hv : (t.ctx c).PlansTo v) (h : Plans P s t) :
    Plans P s (t.setCtx c v) where
  ctx d := by
    by_cases hd : d = c
    · subst hd; rw [State.ctx_setCtx_self]; exact Context.plansTo_trans (h.ctx d) hv
    · rw [State.ctx_setCtx_other _ _ hd]; exact h.ctx d
  quiet d hP hr := by
    have hd : d ≠ c := by
      rintro rfl
      exact hc.elim hP fun hn => hn hr
    rw [State.ctx_setCtx_other _ _ hd]
    exact h.quiet d hP hr
  motion := h.motion
  entries := h.entries
  shot := h.shot
  nextId := h.nextId
  warb := h.warb

theorem plans_setBpln {v : Planner} (hs : v.settings = t.bpln.settings)
    (hr : ∀ c, ¬P c → t.bpln.requests.get c = none → v.requests.get c = none) (h : Plans P s t) :
    Plans P s (t.setBpln v) where
  ctx := h.ctx
  quiet c hP hc := ⟨hr c hP (h.quiet c hP hc).1, (h.quiet c hP hc).2⟩
  motion := hs.trans h.motion
  entries := h.entries
  shot := h.shot
  nextId := h.nextId
  warb := h.warb

theorem plans_latch (e : Event) (h : Plans P s t) : Plans P s (t.latch e) := { h with }

theorem plans_latchIf (b : Bool) (e : Event) (h : Plans P s t) : Plans P s (t.latchIf b e) := by
  cases b
  · exact h
  · exact plans_latch e h

theorem plans_setPsto (v : ProfileStore) (h : Plans P s t) : Plans P s (t.setPsto v) := { h with }

/-- A slot of an entry is written (R109). -/
theorem plans_slot (id b : Nat) (x : Option BandRecord) (h : Plans P s t) :
    Plans P s (t.setMept (t.mept.update id fun e => { e with slots := e.slots.set b x })) where
  ctx := h.ctx
  quiet := h.quiet
  motion := h.motion
  entries := by
    refine Eq.trans ?_ h.entries
    rw [State.setMept_mept, EpochTable.update, List.map_map]
    refine List.map_congr_left fun e _ => ?_
    rw [Function.comp_apply]
    split
    · exact EpochEntry.blank_set _ _ _
    · rfl
  shot := h.shot
  nextId := h.nextId
  warb := h.warb

theorem plans_requestRow (c : Ctx) (y n : Nat) (raw : Bool) (h : Plans P s t) : Plans P s (t.requestRow c y n raw) := by
  unfold State.requestRow; split
  · exact h
  · exact { h with warb := Arbiter.plansTo_trans h.warb (Arbiter.plansTo_request _ c _ rfl) }

theorem plans_tryEmit (c : Ctx) (h : Plans P s t) : Plans P s (t.tryEmit c) := by
  unfold State.tryEmit; split
  · split
    · exact plans_requestRow _ _ _ _ h
    · exact h
  · exact h

/-- A context that obtains a band keeps all but its geometry and its frame. -/
theorem Context.plansTo_setFrame {c : Context} {f g : Frame} (hf : c.frame = some f) (hg : f.plansTo g)
    (geo : Option Geometry) : c.PlansTo { c with geo := geo, frame := some g } where
  core := rfl
  noFrame h := by rw [h] at hf; cases hf
  frame f' hf' := by
    obtain rfl : f' = f := Option.some.inj (hf'.symm.trans hf)
    exact ⟨g, rfl, hg⟩

theorem plans_obtainBand {c : Ctx} (id : Nat) (r : BandRecord) (hc : Asks P s c) (h : Plans P s t) :
    Plans P s (t.obtainBand c id r) := by
  unfold State.obtainBand; split
  · exact h
  · next f hf =>
    exact plans_tryEmit _ (plans_latchIf _ _ (plans_setCtx hc
      (Context.plansTo_setFrame hf (Frame.plansTo_obtain _ _ _ _) _) h))

theorem plans_answer (c : Ctx) (id : Nat) (r : BandRecord) (h : Plans P s t) : Plans P s (t.answer c id r) := by
  unfold State.answer; split
  · next hr =>
    refine plans_obtainBand _ _ (asks_of_request h (by rw [hr]; exact Option.some_ne_none _))
      (plans_setBpln rfl (fun d _ hd => ?_) h)
    by_cases hdc : d = c
    · subst hdc; exact Both.get_set_self _ _ _
    · exact (Both.get_set_other _ _ hdc).trans hd
  · exact h

theorem plans_finishBand (e : EpochEntry) (b : Nat) (tb : Time) (est : Option Estimate) (d w : Bool)
    (h : Plans P s t) : Plans P s (t.finishBand e b tb est d w) :=
  plans_answer _ _ _ (plans_answer _ _ _ (plans_latchIf _ _
    (plans_setBpln rfl (fun _ _ hc => hc) (plans_slot _ _ _ h))))

theorem plans_beginBand (b : Nat) (h : Plans P s t) : Plans P s (t.beginBand b) := by
  unfold State.beginBand
  dsimp only
  split
  · exact plans_setBpln rfl (fun _ _ hc => hc)
      (plans_latch _ (plans_setBpln rfl (fun _ _ hc => hc) (plans_setPsto _ h)))
  · exact plans_setBpln rfl (fun _ _ hc => hc) h

theorem Context.plansTo_restart (c : Context) (now : Time) : c.PlansTo (c.mapFrame fun f => f.restart now) where
  core := rfl
  noFrame h := by
    obtain ⟨_, _, _, _, _, _, _, frame, _, _⟩ := c
    subst h; rfl
  frame f hf := ⟨f.restart now, by rw [Context.mapFrame, hf]; rfl, rfl, 0, rfl, rfl, .inl rfl⟩

theorem plans_resumeWaiter (c : Ctx) (h : Plans P s t) : Plans P s (t.resumeWaiter c) := by
  unfold State.resumeWaiter; split
  · next hr =>
    exact plans_setCtx (asks_of_request h fun hn => by rw [hn] at hr; cases hr) (Context.plansTo_restart _ _) h
  · exact h

theorem plans_resumeWaiters (h : Plans P s t) : Plans P s t.resumeWaiters :=
  plans_resumeWaiter _ (plans_resumeWaiter _ h)

theorem plans_askBand (e : EpochEntry) (b : Nat) (h : Plans P s t) : Plans P s (t.askBand e b) := by
  unfold State.askBand
  dsimp only
  split
  · split
    · exact plans_finishBand _ _ _ _ _ _ h
    · split
      · exact plans_finishBand _ _ _ _ _ _ (plans_resumeWaiters h)
      · exact plans_setBpln rfl (fun _ _ hc => hc) h
  · exact plans_finishBand _ _ _ _ _ _ h

theorem plans_planRun : ∀ (n : Nat) {t : State}, Plans P s t → Plans P s (planRun n t)
  | 0, _, h => h
  | n + 1, t, h => by
    unfold planRun
    split
    · split
      · exact h
      · split
        · exact h
        · exact plans_planRun n (plans_askBand _ _ (plans_beginBand _ h))
    · exact h

theorem plans_plan (h : Plans P s t) : Plans P s t.plan := plans_planRun _ h

theorem plans_endDeferral (est : Option Estimate) (w : Bool) (h : Plans P s t) : Plans P s (t.endDeferral est w) := by
  unfold State.endDeferral; split
  · exact h
  · split
    · exact h
    · exact plans_plan (plans_finishBand _ _ _ _ _ _ h)

theorem plans_requestBand (c : Ctx) (id b : Nat) (hc : P c) (h : Plans P s t) : Plans P s (t.requestBand c id b) := by
  unfold State.requestBand; split
  · exact plans_obtainBand _ _ (.inl hc) h
  · refine plans_plan (plans_setBpln rfl (fun d hd hr => ?_) h)
    have hdc : d ≠ c := fun hdc => hd (hdc ▸ hc)
    exact (Both.get_set_other _ _ hdc).trans hr

theorem plans_requestNext (c : Ctx) (hc : P c) (h : Plans P s t) : Plans P s (t.requestNext c) := by
  unfold State.requestNext; split
  · exact h
  · exact plans_requestBand _ _ _ hc h

end Planning

/-! ### Planning for no one -/

/-- Without an outstanding request nothing is planned (R95). -/
theorem planRun_of_unrequested {s : State} (h : s.bpln.requested = false) : ∀ n, planRun n s = s
  | 0 => rfl
  | n + 1 => by rw [planRun, h]; rfl

theorem State.plan_of_unrequested {s : State} (h : ∀ c, s.bpln.requests.get c = none) : s.plan = s := by
  have h0 : s.bpln.requests.ctx0 = none := h .ctx0
  have h1 : s.bpln.requests.ctx1 = none := h .ctx1
  exact planRun_of_unrequested (by rw [Planner.requested, h0, h1]; rfl) _

/-! ### RESET of scope TRACKING (R38, R112) -/

theorem exec_resetTracking (dt : Nat) (s : State) : exec (.resetTracking dt) s = execResetTracking dt s := rfl

/-- The reset before the deferral it abandons (R38, R53). -/
def State.restTracking (s : State) : State :=
  (((s.setBpln { s.bpln with motion := s.restMotion }).setPmon s.pmon.restart).setLlr
    { s.llr with consecBad := 0 }).clearTrack

@[simp] theorem State.takeWith_ptrk (s : State) (effect : State → State) :
    (s.takeWith effect).ptrk = (effect s).ptrk := State.setCrec_ptrk _ _

theorem changes_restTracking {s t : State} {bs : List Block}
    (hb : ∀ b ∈ [Block.pmon, .llr, .ptrk, .bpln], b ∈ bs) (h : s.changesOnly t bs) :
    s.changesOnly t.restTracking bs :=
  changes_setPtrk _ (hb .ptrk (by decide)) (changes_setLlr _ (hb .llr (by decide)) (changes_setPmon _
    (hb .pmon (by decide)) (changes_setBpln _ (hb .bpln (by decide)) h)))

theorem changes_abandonResting (s : State) : s.restTracking.changesOnly s.resetTracking planBlocks :=
  changes_abandonDeferral (State.changesOnly_refl _ _)

theorem State.resetTracking_pmon (s : State) : s.resetTracking.pmon = s.pmon.restart :=
  changes_abandonResting s .pmon (by decide)
theorem State.resetTracking_llr (s : State) : s.resetTracking.llr = { s.llr with consecBad := 0 } :=
  changes_abandonResting s .llr (by decide)
theorem State.resetTracking_ptrk (s : State) : s.resetTracking.ptrk = s.ptrk.clear :=
  changes_abandonResting s .ptrk (by decide)
theorem State.resetTracking_fest (s : State) : s.resetTracking.fest = s.fest :=
  changes_abandonResting s .fest (by decide)
theorem State.resetTracking_crec (s : State) : s.resetTracking.crec = s.crec :=
  changes_abandonResting s .crec (by decide)
theorem State.resetTracking_settings (s : State) : s.resetTracking.bpln.settings = s.bpln.settings :=
  (plans_endDeferral (P := fun _ => False) none false (plans_refl _ s.restTracking)).motion

/-- Without a waiting deferral the reset abandons none (R53). -/
theorem State.resetTracking_of_none {s : State} (h : s.bpln.deferral = none) : s.resetTracking = s.restTracking :=
  State.abandonDeferral_of_none (s := s.restTracking) h

theorem State.begin_restMotion (s : State) (dt : Nat) : (s.begin dt).restMotion = s.restMotion := by
  rw [State.restMotion, State.begin_psto]; rfl

/-- Settles O53: the reset sets the blocks named; abandoning a deferral plans, which keeps all of them but the motion state
(R38, R53, R112). -/
theorem resetTrackingRestartsAcquisition : Obligations.ResetTrackingRestartsAcquisition := by
  intro dt s htakes
  refine ⟨_, by rw [exec_resetTracking, execResetTracking, exec_takenSettled _ htakes], ?_, ?_, ?_, ?_, ?_, ?_, ?_,
    fun hwait => ⟨?_, ?_⟩⟩
  · rw [State.settle_pmon, State.takeWith_pmon, State.resetTracking_pmon, State.begin_pmon]; rfl
  · rw [State.settle_llr, State.takeWith_llr, State.resetTracking_llr, State.begin_llr]
  · rw [State.settle_ptrk, State.takeWith_ptrk, State.resetTracking_ptrk, State.begin_ptrk]; rfl
  · rw [State.settle_fest, State.takeWith_fest, State.resetTracking_fest, State.begin_fest]
  · rw [State.settle_bpln, State.takeWith_bpln, State.resetTracking_settings, State.begin_bpln]
  · exact changes_settle (by decide) (by decide) (by decide) (changes_takeWith (by decide)
      (State.changesOnly_trans (changes_restTracking (by decide) (State.changesOnly_refl _ _))
        (State.changesOnly_mono (changes_abandonResting _) (by decide))))
  · rw [State.settle_crec]
    exact State.takeWith_crec_of_kept (State.resetTracking_crec _)
  · rw [State.settle_bpln, State.takeWith_bpln, State.resetTracking_of_none (by rwa [State.begin_bpln])]
    exact State.begin_restMotion s dt
  · refine changes_settle (by decide) (by decide) (by decide) (changes_takeWith (by decide) ?_)
    rw [State.resetTracking_of_none (by rwa [State.begin_bpln])]
    exact changes_restTracking (by decide) (State.changesOnly_refl _ _)

end Sys2Proof.Machine
end

section
/-! PROOFS. The frame mark (R59 to R61, R66) and settings that take effect (R4, R7, R130 to R133). -/

namespace Sys2Proof.Machine

/-! ### FRAME_MARK (R59 to R61, R66) -/

/-- An entry stays unless its removal conditions hold (R66). -/
theorem State.awaits_eq (s : State) (e : EpochEntry) : s.awaits e = !s.removalDue e := by
  have h0 : s.ctx .ctx0 = s.ctxs.ctx0 := rfl
  have h1 : s.ctx .ctx1 = s.ctxs.ctx1 := rfl
  rw [State.awaits, State.removalDue, EpochEntry.idle, h0, h1]
  by_cases hoff0 : s.ctxs.ctx0.state = .off <;> by_cases hoff1 : s.ctxs.ctx1.state = .off <;>
    simp [hoff0, hoff1, Bool.or_assoc]

theorem State.awaits_congr {s t : State} (h : t.ctxs = s.ctxs) : t.awaits = s.awaits := by
  funext e
  rw [State.awaits_eq, State.awaits_eq, State.removalDue, State.removalDue, h]

theorem State.examineEntries_entries (s : State) :
    s.examineEntries.mept = { s.mept with entries := s.mept.entries.filter s.awaits } := by
  have h : s.awaits = fun e => !s.removalDue e := funext s.awaits_eq
  rw [h]; rfl

theorem Planner.follow_requests (p : Planner) (kept : List EpochEntry) : (p.follow kept).requests = p.requests := by
  unfold Planner.follow; split
  · rfl
  · split <;> rfl

theorem Planner.meet_requests (p : Planner) (id : Nat) : (p.meet id).requests = p.requests := by
  unfold Planner.meet; split <;> rfl

@[simp] theorem State.examineEntries_requests (s : State) : s.examineEntries.bpln.requests = s.bpln.requests :=
  Planner.follow_requests _ _

/-- The entries a creation finds: all while there is room, else those an eviction leaves (R61). -/
def EpochTable.roomy (m : EpochTable) : List EpochEntry := if m.entries.length < 4 then m.entries else evict m.entries

theorem State.makeRoom_mept (s : State) : s.makeRoom.mept = { s.mept with entries := s.mept.roomy } := by
  unfold State.makeRoom EpochTable.roomy; split <;> rfl

theorem State.makeRoom_requests (s : State) : s.makeRoom.bpln.requests = s.bpln.requests := by
  unfold State.makeRoom; split
  · rfl
  · exact Planner.follow_requests _ _

theorem State.createEntry_requests (s : State) (m : Time) (k : Bool) (f : Both Bool) :
    (s.createEntry m k f).bpln.requests = s.bpln.requests :=
  (Planner.meet_requests _ _).trans s.makeRoom_requests

theorem State.createEntry_mept (s : State) (m : Time) (k : Bool) (f : Both Bool) :
    (s.createEntry m k f).mept =
      { s.mept with entries := s.mept.roomy ++ [s.mept.newEntry m k f], nextId := s.mept.nextId + 1 } := by
  rw [State.createEntry, State.appendEntry, State.setBpln_mept, State.setMept_mept, State.makeRoom_mept]
  rfl

theorem State.createEntry_ctxs (s : State) (m : Time) (k : Bool) (f : Both Bool) :
    (s.createEntry m k f).ctxs = s.ctxs := by
  show s.makeRoom.ctxs = s.ctxs
  unfold State.makeRoom; split <;> rfl

theorem State.createEntry_evu (s : State) (m : Time) (k : Bool) (f : Both Bool) :
    (s.createEntry m k f).evu = if s.mept.entries.length < 4 then s.evu else s.evu.latch s.isReady .markOverrun := by
  show s.makeRoom.evu = _
  unfold State.makeRoom; split <;> rfl

theorem changes_createEntry_only {s t : State} {bs : List Block} (m : Time) (k : Bool) (f : Both Bool)
    (hb : ∀ b ∈ [Block.mept, .bpln, .evu], b ∈ bs) (h : s.changesOnly t bs) :
    s.changesOnly (t.createEntry m k f) bs := by
  have hm := hb .mept (by decide)
  have hp := hb .bpln (by decide)
  have hroom : s.changesOnly t.makeRoom bs := by
    unfold State.makeRoom; split
    · exact h
    · exact changes_latch _ (hb .evu (by decide)) (changes_holdEntries _ hm hp h)
  exact changes_setBpln _ hp (changes_setMept _ hm hroom)

/-- With no request outstanding a frame mark plans nothing (R95). -/
theorem State.mark_of_unrequested {s : State} (h : s.bpln.requests = ⟨none, none⟩) :
    s.mark = (s.createEntry s.time true ⟨false, false⟩).examineEntries :=
  State.plan_of_unrequested fun c => by
    rw [State.examineEntries_requests, State.createEntry_requests, h]; cases c <;> rfl

theorem exec_frameMark (dt : Nat) (s : State) :
    exec (.frameMark dt) s = .next (if (s.begin dt).isReady then (s.begin dt).mark.settle else s.begin dt) := rfl

/-- An entry created by a frame mark stays while a context is not OFF (R66). -/
theorem State.awaits_newEntry {s : State} (m : EpochTable) (mark : Time)
    (h : (s.ctx .ctx0).state ≠ .off ∨ (s.ctx .ctx1).state ≠ .off) :
    s.awaits (m.newEntry mark true ⟨false, false⟩) = true := by
  rw [State.awaits, EpochTable.newEntry]
  rcases h with h | h <;> simp [h]

theorem EpochEntry.idle_iff (e : EpochEntry) : e.idle = true ↔ e.inUse = ⟨false, false⟩ := by
  obtain ⟨_, _, _, _, _, ⟨b0, b1⟩, _⟩ := e
  cases b0 <;> cases b1 <;> simp [EpochEntry.idle]

theorem EpochTable.roomy_sublist (m : EpochTable) : m.roomy.Sublist m.entries := by
  unfold EpochTable.roomy; split
  · exact List.Sublist.refl _
  · exact (evict_spec _).1

/-- Settles O27: the creation appends the entry to those that have room, and the removal conditions filter the others
(R60, R61, R66). -/
theorem frameMarkCreatesAMarkedEntry : Obligations.FrameMarkCreatesAMarkedEntry := by
  intro dt s hready hctx hreq
  have hexec : exec (.frameMark dt) s =
      .next (((s.begin dt).createEntry (s.begin dt).time true ⟨false, false⟩).examineEntries).settle := by
    rw [exec_frameMark, if_pos (by rw [State.begin_isReady]; exact decide_eq_true hready),
      State.mark_of_unrequested (by rw [State.begin_bpln, hreq])]
  have hawaits : ((s.begin dt).createEntry (s.begin dt).time true ⟨false, false⟩).awaits = s.awaits :=
    State.awaits_congr (by rw [State.createEntry_ctxs, State.begin_ctxs])
  have hmept : (((s.begin dt).createEntry (s.begin dt).time true ⟨false, false⟩).examineEntries).settle.mept =
      { s.mept with
        entries := s.mept.roomy.filter s.awaits ++ [s.mept.newEntry (s.begin dt).time true ⟨false, false⟩]
        nextId := s.mept.nextId + 1 } := by
    rw [State.settle_mept, State.examineEntries_entries, hawaits, State.createEntry_mept, State.begin_mept]
    simp only [List.filter_append, List.filter_cons, State.awaits_newEntry _ _ hctx, if_true, List.filter_nil]
  have hevu : (((s.begin dt).createEntry (s.begin dt).time true ⟨false, false⟩).examineEntries).settle.evu =
      if s.mept.entries.length < 4 then s.evu else s.evu.latch s.isReady .markOverrun := by
    rw [State.settle_evu]
    refine (State.createEntry_evu (s.begin dt) (s.begin dt).time true ⟨false, false⟩).trans ?_
    rw [State.begin_mept, State.begin_evu, State.begin_isReady]
  refine ⟨_, s.mept.roomy.filter s.awaits, hexec, ?_, by rw [hmept], by rw [hmept],
    List.filter_sublist.trans s.mept.roomy_sublist, fun hroom => ⟨?_, ?_⟩, fun hfull => ?_,
    fun pre v post hfull hsplit hidle hpre => ?_, ?_⟩
  · rw [hmept, State.begin_time_of_ready dt hready]; rfl
  · rw [EpochTable.roomy, if_pos hroom]
  · rw [hevu, if_pos hroom]
  · rw [hevu, if_neg (Nat.not_lt.mpr hfull)]
    exact EventUnit.latch_getLsbD _ _ _
  · obtain ⟨_, _, hevict⟩ := evict_spec s.mept.entries
    rw [EpochTable.roomy, if_neg (Nat.not_lt.mpr hfull), hevict pre v post hsplit (v.idle_iff.mpr hidle) fun e he => by
      rw [← Bool.not_eq_true, e.idle_iff]; exact hpre e he]
  · exact changes_settle (by decide) (by decide) (by decide) (changes_examineEntries (by decide) (by decide)
      (changes_createEntry_only _ _ _ (by decide) (State.changesOnly_refl _ _)))

/-! ### Settings that take effect (R4, R7, R130, R132, R133) -/

/-- The one-bits of a mask from bit 0 up are counted (R4). -/
theorem trailingOnes_eq : ∀ (n m z : Nat), z ≤ n → (∀ i, i < z → m.testBit i = true) → (z < n → m.testBit z = false) →
    trailingOnes n m = z
  | 0, _, z, hz, _, _ => by rw [trailingOnes]; omega
  | n + 1, m, 0, _, _, hend => by
    have h0 := hend (by omega)
    rw [Nat.testBit_zero, decide_eq_false_iff_not] at h0
    rw [trailingOnes, if_neg h0]
  | n + 1, m, z + 1, hz, hones, hend => by
    have h0 := hones 0 (by omega)
    rw [Nat.testBit_zero, decide_eq_true_eq] at h0
    rw [trailingOnes, if_pos h0, trailingOnes_eq n (m / 2) z (by omega)
      (fun i hi => by rw [← Nat.testBit_succ]; exact hones (i + 1) (by omega))
      (fun hzn => by rw [← Nat.testBit_succ]; exact hend (by omega))]
    omega

theorem trailingOnes_of_mask {mask : Word} {z : Nat} (hones : ∀ i, i < z → mask.getLsbD i = true)
    (hend : mask.getLsbD z = false) : trailingOnes 32 mask.toNat = z := by
  have hz : z ≤ 32 := by
    by_contra hlt
    have h32 := hones 32 (by omega)
    rw [BitVec.getLsbD_of_ge _ _ (le_refl 32)] at h32
    cases h32
  exact trailingOnes_eq 32 _ z hz (fun i hi => hones i hi) fun _ => hend

theorem effectiveMode_eq (m : Mode) (depth : Nat) : effectiveMode m depth = fallbackTable m depth := by
  unfold effectiveMode fallbackTable
  cases m with
  | transparent => simp
  | shadeOnly => by_cases h : depth < 2 <;> simp [h]
  | geometryOnly => simp
  | correct => simp

theorem followMode_of_resting (m : Mode) {x : CtxState} (h : x.resting = true) :
    followMode m x = if m = .transparent then .off else .idle := by
  unfold followMode
  rw [CtxState.resting, Bool.or_eq_true, decide_eq_true_eq, decide_eq_true_eq] at h
  rcases h with rfl | rfl <;> by_cases hm : m = .transparent <;> simp [hm]

/-- Context `c` with settings in force and the state they call for (R132). -/
def Context.took (c : Context) (st : Settings) (share : Nat) : Context :=
  { c.adopt st share with state := followMode st.mode c.state }

theorem Context.took_mode (c : Context) (st : Settings) (share : Nat) :
    (c.took st share).mode = fallbackTable st.mode (min 128 (share / st.width)) := effectiveMode_eq _ _

/-- The state in which the settings are in force, before entries are examined (R132 (1) to (4)). -/
def State.put (s : State) (c : Ctx) (st : Settings) : State :=
  (s.setCtx c ((s.ctx c).took st (shareOf s.lmem.share0 c))).latchIf
    ((s.ctx c).adopt st (shareOf s.lmem.share0 c)).fellBack .depthLimit

theorem State.ctx_put (s : State) (c : Ctx) (st : Settings) :
    (s.put c st).ctx c = (s.ctx c).took st (shareOf s.lmem.share0 c) := by
  rw [State.put, State.ctx_latchIf, State.ctx_setCtx_self]

theorem State.applySettings_eq (s : State) (c : Ctx) (st : Settings) :
    s.applySettings c st =
      if followMode st.mode (s.ctx c).state = (s.ctx c).state then s.put c st
      else if followMode st.mode (s.ctx c).state = .off then (s.put c st).examineEntries.plan
      else (((s.put c st).consumeAll c).examineEntries).plan := rfl

theorem Plans.mem_entries {P : Ctx → Prop} {s t : State} (h : Plans P s t) {e : EpochEntry} (he : e ∈ t.mept.entries) :
    ∃ e' ∈ s.mept.entries, e'.blank = e.blank := by
  have hmem : e.blank ∈ s.mept.entries.map EpochEntry.blank := h.entries ▸ List.mem_map_of_mem he
  exact List.mem_map.mp hmem

theorem EpochEntry.consumed_of_blank {e e' : EpochEntry} (h : e'.blank = e.blank) : e'.consumed = e.consumed :=
  (congrArg EpochEntry.consumed h :)

/-- Settings that take effect reach the context, with DEPTH_LIMIT for a fallback; on leaving OFF every entry held is
consumed (R62, R132, R133). -/
theorem State.applySettings_spec (s : State) (c : Ctx) (st : Settings) :
    ((s.ctx c).took st (shareOf s.lmem.share0 c)).PlansTo ((s.applySettings c st).ctx c) ∧
      (((s.ctx c).took st (shareOf s.lmem.share0 c)).mode ≠ st.mode → (s.applySettings c st).has .depthLimit) ∧
      (followMode st.mode (s.ctx c).state ≠ (s.ctx c).state → followMode st.mode (s.ctx c).state ≠ .off →
        ∀ e ∈ (s.applySettings c st).mept.entries, e.consumed.get c = true) := by
  have hput : ((s.ctx c).took st (shareOf s.lmem.share0 c)).mode ≠ st.mode → (s.put c st).has .depthLimit := by
    intro hmode
    rw [State.put, show ((s.ctx c).adopt st (shareOf s.lmem.share0 c)).fellBack = true from decide_eq_true hmode]
    exact State.has_latch _ _
  rw [State.applySettings_eq]
  split
  · next hsame =>
    rw [State.ctx_put]
    exact ⟨Context.plansTo_refl _, hput, fun h => absurd hsame h⟩
  · split
    · next hoff =>
      refine ⟨?_, fun hmode => ?_, fun _ h => absurd hoff h⟩
      · rw [← State.ctx_put]
        exact (plans_plan (plans_refl (fun _ => False) (s.put c st).examineEntries)).ctx c
      · exact (inners_plan (inners_examineEntries (inners_refl _))).keeps_event _ (hput hmode)
    · have hplans := plans_plan (plans_refl (fun _ => False) ((s.put c st).consumeAll c).examineEntries)
      refine ⟨?_, fun hmode => ?_, fun _ _ e he => ?_⟩
      · rw [← State.ctx_put]
        exact hplans.ctx c
      · exact (inners_plan (inners_examineEntries (inners_consumeAll c (inners_refl _)))).keeps_event _ (hput hmode)
      · obtain ⟨e', he', hblank⟩ := hplans.mem_entries he
        rw [← EpochEntry.consumed_of_blank hblank]
        rw [State.examineEntries_entries] at he'
        obtain ⟨x, _, rfl⟩ := List.mem_map.mp (List.mem_of_mem_filter he')
        exact Both.get_set_self _ _ _

/-- What a context shows of settings in force, whatever its frame. -/
theorem State.tookEffect_of {s t : State} {c : Ctx} {st : Settings} (hlmem : t.lmem = s.lmem)
    (hrest : (s.ctx c).state.resting = true)
    (hctx : (t.ctx c).core = ((s.ctx c).took st (shareOf s.lmem.share0 c)).core)
    (hlimit : ((s.ctx c).took st (shareOf s.lmem.share0 c)).mode ≠ st.mode → t.has .depthLimit)
    (hconsumed : followMode st.mode (s.ctx c).state ≠ (s.ctx c).state → followMode st.mode (s.ctx c).state ≠ .off →
        ∀ e ∈ t.mept.entries, e.consumed.get c = true) : s.tookEffect t c := by
  set d := (s.ctx c).took st (shareOf s.lmem.share0 c) with hd
  have hsettings : (t.ctx c).settings = st := (congrArg Context.settings hctx :)
  have hextent : (t.ctx c).extent = st.window.map fun w => extentOf w.1 w.2 := (congrArg Context.extent hctx :)
  have hheight : (t.ctx c).height = heightIn st (t.ctx c).extent := by
    rw [hextent]; exact (congrArg Context.height hctx :)
  have hdepth : (t.ctx c).depth = min 128 (shareOf s.lmem.share0 c / st.width) := (congrArg Context.depth hctx :)
  have hmode : (t.ctx c).mode = d.mode := (congrArg Context.mode hctx :)
  have hstate : (t.ctx c).state = followMode st.mode (s.ctx c).state := (congrArg Context.state hctx :)
  have hfollow := followMode_of_resting st.mode hrest
  refine ⟨fun h => ?_, fun base mask z h hones hend => ?_, fun h => ?_, fun x h => ?_, ?_, ?_, fun h => ?_, ?_,
    fun hoff hon => ?_⟩
  · rw [hextent, ← hsettings, h]; rfl
  · rw [hextent, ← hsettings, h, Option.map_some, extentOf, trailingOnes_of_mask hones hend]
  · rw [hheight, h, hsettings]; rfl
  · rw [hheight, h, hsettings]; rfl
  · rw [hdepth, hsettings, hlmem]
    cases c <;> rfl
  · rw [hmode, hd, Context.took_mode, hdepth, hsettings]
  · exact hlimit (by rwa [← hmode, ← hsettings])
  · rw [hstate, hfollow, hsettings]
  · rw [hsettings] at hon
    refine hconsumed ?_ ?_
    · rw [hfollow, if_neg hon, hoff]; decide
    · rw [hfollow, if_neg hon]; decide

/-! ### CONTEXT_GEOMETRY and CONTEXT_OPTICS (R131, Table 8.1) -/

theorem exec_contextGeometry (dt : Nat) (c : Ctx) (p : Params) (s : State) :
    exec (.contextGeometry dt c p) s = execContextGeometry dt c p s := rfl

theorem exec_contextOptics (dt : Nat) (c : Ctx) (p : Params) (s : State) :
    exec (.contextOptics dt c p) s = execContextOptics dt c p s := rfl

theorem Params.width_eq (p : Params) : p.width = max 16 (min 8192 (p.p4.toNat % 65536)) / 4 * 4 := by
  rw [Params.width, clampNat_eq _ (by decide), halfLo_eq]

theorem Params.geometry_eq (p : Params) (st : Settings) :
    p.geometry st = { st with
      window := some (p.p1.toNat + p.p2.toNat % 256 * 2 ^ 32, p.p3)
      width := max 16 (min 8192 (p.p4.toNat % 65536)) / 4 * 4
      height := max 16 (min 4320 (p.p4.toNat / 65536))
      stride := max (p.p5.toNat / 32 * 32) (8 * (max 16 (min 8192 (p.p4.toNat % 65536)) / 4 * 4))
      stall := max 100 (min 1000000 p.p6.toNat) } := by
  rw [Params.geometry, Params.stride, Params.width_eq, baseOf_eq, clampNat_eq _ (by decide), clampNat_eq _ (by decide),
    halfHi_eq]

theorem modeOf_eq (n : Nat) : modeOf n = if n = 0 then .transparent else if n = 1 then .shadeOnly
    else if n = 2 then .geometryOnly else .correct := by
  unfold modeOf; split <;> simp_all

theorem viewOf_eq (n : Nat) : viewOf n = if n = 0 then .normal else .gainView := by
  unfold viewOf; split <;> simp_all

theorem Params.optics_eq (p : Params) (st : Settings) :
    p.optics st = { st with
      mode := if p.p1.toNat % 256 = 0 then .transparent else if p.p1.toNat % 256 = 1 then .shadeOnly
        else if p.p1.toNat % 256 = 2 then .geometryOnly else .correct
      view := if p.p1.toNat / 256 % 256 = 0 then .normal else .gainView
      ox := (p.p2.setWidth 16).toInt
      oy := (p.p2.extractLsb' 16 16).toInt
      scale := max 256 (min 4096 p.p3.toNat)
      blackR := min 8191 p.p4.toNat
      blackG := min 8191 p.p5.toNat
      blackB := min 8191 p.p6.toNat } := by
  rw [Params.optics, modeOf_eq, viewOf_eq, byteOf_zero, byteOf_one, signedLo_eq, signedHi_eq, clampNat_eq _ (by decide),
    clampNat_zero, clampNat_zero, clampNat_zero]

theorem CtxState.resting_iff (x : CtxState) : x.resting = true ↔ x = .off ∨ x = .idle := by
  rw [CtxState.resting, Bool.or_eq_true, decide_eq_true_eq, decide_eq_true_eq]

theorem Context.unstalled_core {c d : Context} (h : d.unstalled = c.unstalled) : d.core = c.core := by
  obtain ⟨_, _, _, _, _, _, _, _, _, _⟩ := c
  obtain ⟨_, _, _, _, _, _, _, _, _, _⟩ := d
  simp only [Context.unstalled, Context.mapFrame, Context.mk.injEq] at h
  obtain ⟨rfl, rfl, rfl, rfl, rfl, rfl, rfl, _, _, rfl⟩ := h
  rfl

/-- The stall timers aside, a context that only the end of a command has touched is unchanged (R149). -/
theorem State.sameIn_ctx {s t : State} {c : Ctx} (h : s.sameIn t (blockOf c)) :
    (t.ctx c).unstalled = (s.ctx c).unstalled := by
  cases c <;> exact h

theorem blockOf_notMem_settle (c : Ctx) : blockOf c ∉ settleBlocks := by cases c <;> decide

theorem State.settle_ctx_core (s : State) (c : Ctx) : (s.settle.ctx c).core = (s.ctx c).core :=
  Context.unstalled_core (State.sameIn_ctx (s.changesOnly_settle (blockOf c) (blockOf_notMem_settle c)))

theorem State.changeSettings_resting {s : State} {c : Ctx} (f : Settings → Settings) (h : (s.ctx c).state.resting = true) :
    s.changeSettings c f = s.applySettings c (f (s.ctx c).settings) := if_pos h

theorem State.changeSettings_inFrame {s : State} {c : Ctx} (f : Settings → Settings)
    (h : ¬(s.ctx c).state.resting = true) :
    s.changeSettings c f = s.setCtx c { s.ctx c with next := some (f ((s.ctx c).next.getD (s.ctx c).settings)) } :=
  if_neg h

theorem State.changeSettings_crec (s : State) (c : Ctx) (f : Settings → Settings) :
    (s.changeSettings c f).crec = s.crec :=
  changes_changeSettings c f (State.changesOnly_refl _ _) .crec (by decide)

/-- What a record's settings leave in OFF and IDLE, at the end of the command (R131, R132). -/
theorem State.changed_tookEffect {s : State} {dt : Nat} {c : Ctx} {effect : State → State} {st : Settings}
    (hrest : (s.ctx c).state.resting = true)
    (hctx : ((effect (s.begin dt)).ctx c).core = (((s.begin dt).applySettings c st).ctx c).core)
    (hmept : (effect (s.begin dt)).mept = ((s.begin dt).applySettings c st).mept)
    (hevu : (effect (s.begin dt)).evu = ((s.begin dt).applySettings c st).evu)
    (hlmem : (effect (s.begin dt)).lmem = s.lmem) :
    (((s.begin dt).takeWith effect).settle.ctx c).core = ((s.ctx c).took st (shareOf s.lmem.share0 c)).core ∧
      s.tookEffect ((s.begin dt).takeWith effect).settle c := by
  obtain ⟨hplans, hlimit, hconsumed⟩ := State.applySettings_spec (s.begin dt) c st
  rw [State.ctx_begin, State.begin_lmem] at hplans hlimit
  rw [State.ctx_begin] at hconsumed
  have hcore : (((s.begin dt).takeWith effect).settle.ctx c).core =
      ((s.ctx c).took st (shareOf s.lmem.share0 c)).core := by
    rw [State.settle_ctx_core, State.ctx_takeWith, hctx, hplans.core]
  refine ⟨hcore, State.tookEffect_of ?_ hrest hcore (fun hmode => ?_) fun hchange hon e he => ?_⟩
  · rw [State.settle_lmem, State.takeWith_lmem, hlmem]
  · refine State.has_settle ?_
    rw [State.has, State.takeWith_evu, hevu]
    exact hlimit hmode
  · rw [State.settle_mept, State.takeWith_mept, hmept] at he
    exact hconsumed hchange hon e he

theorem not_resting {x : CtxState} (hoff : x ≠ .off) (hidle : x ≠ .idle) : ¬x.resting = true := by
  rw [CtxState.resting_iff, not_or]; exact ⟨hoff, hidle⟩

/-- Settles O37: at rest the record's settings take effect; in a frame they become the next settings (R131, R132). -/
theorem geometryTakesEffectAtOnceOrNext : Obligations.GeometryTakesEffectAtOnceOrNext := by
  intro dt c p s htakes
  refine ⟨_, by rw [exec_contextGeometry, execContextGeometry, exec_takenSettled _ htakes], ?_, fun hrest => ?_,
    fun hoff hidle => ?_, ?_⟩
  · rw [State.settle_crec]
    exact State.takeWith_crec_of_kept (State.changeSettings_crec _ _ _)
  · replace hrest := (CtxState.resting_iff _).mpr hrest
    have hrecord : (s.begin dt).recordGeometry c p = (s.begin dt).applySettings c (p.geometry (s.ctx c).settings) := by
      rw [State.recordGeometry, State.changeSettings_resting _ (by rwa [State.ctx_begin]), State.ctx_begin]
    have hlmem : ((s.begin dt).recordGeometry c p).lmem = s.lmem :=
      (changes_changeSettings c _ (State.changesOnly_refl _ _) .lmem (by decide)).trans (s.begin_lmem dt)
    obtain ⟨hcore, htook⟩ := State.changed_tookEffect (effect := fun u => u.recordGeometry c p) hrest
      (by rw [hrecord]) (by rw [hrecord]) (by rw [hrecord]) hlmem
    exact ⟨(congrArg Context.settings hcore :).trans (Params.geometry_eq _ _), (congrArg Context.next hcore :), htook⟩
  · have hrecord : (s.begin dt).recordGeometry c p = (s.begin dt).setCtx c { s.ctx c with
        next := some (p.geometry ((s.ctx c).next.getD (s.ctx c).settings)) } := by
      rw [State.recordGeometry, State.changeSettings_inFrame _ (by rw [State.ctx_begin]; exact not_resting hoff hidle),
        State.ctx_begin]
    have hcore : (((s.begin dt).takeWith fun u => u.recordGeometry c p).settle.ctx c).core =
        ({ s.ctx c with next := some (p.geometry ((s.ctx c).next.getD (s.ctx c).settings)) } : Context).core := by
      rw [State.settle_ctx_core, State.ctx_takeWith, hrecord, State.ctx_setCtx_self]
    refine ⟨(congrArg Context.settings hcore :), (congrArg Context.state hcore :), ?_, ?_⟩
    · rw [← Params.geometry_eq]; exact (congrArg Context.next hcore :)
    · refine changes_settle (by simp) (by simp) (by simp) (changes_takeWith (by simp) ?_)
      rw [hrecord]
      exact changes_setCtx _ _ (by simp) (by cases c <;> simp [stallOf]) (State.changesOnly_refl _ _)
  · exact changes_settle (by decide) (by decide) (by decide) (changes_takeWith (by decide) (State.changesOnly_mono
      (changes_changeSettings c _ (State.changesOnly_refl _ _)) (by decide)))

theorem Context.look_core {c : Context} {p : Params} {st : Settings} (h : c.settings = p.optics st) :
    (c.look p).core = c.core := by
  have hview : { c.settings with view := viewOf (byteOf p.p1 1) } = c.settings := by rw [h]; rfl
  rw [Context.look, hview]

/-- Settles O38: as O37, and the view is in force at once (R131, R132). -/
theorem opticsSetTheViewAndFollowTheMode : Obligations.OpticsSetTheViewAndFollowTheMode := by
  intro dt c p s htakes
  have hblocks : (s.begin dt).changesOnly ((s.begin dt).recordOptics c p) planBlocks :=
    changes_recordOptics c p (State.changesOnly_refl _ _)
  refine ⟨_, by rw [exec_contextOptics, execContextOptics, exec_takenSettled _ htakes], ?_, fun hrest => ?_,
    fun hoff hidle => ?_, ?_⟩
  · rw [State.settle_crec]
    exact State.takeWith_crec_of_kept (hblocks .crec (by decide))
  · replace hrest := (CtxState.resting_iff _).mpr hrest
    set v := (s.begin dt).applySettings c (p.optics (s.ctx c).settings) with hv
    have hrecord : (s.begin dt).recordOptics c p = v.setCtx c ((v.ctx c).look p) := by
      rw [State.recordOptics, State.changeSettings_resting _ (by rwa [State.ctx_begin]), State.ctx_begin]
    have hsettings : (v.ctx c).settings = p.optics (s.ctx c).settings :=
      (State.applySettings_spec (s.begin dt) c _).1.settings_eq
    obtain ⟨hcore, htook⟩ := State.changed_tookEffect (effect := fun u => u.recordOptics c p)
      (st := p.optics (s.ctx c).settings) hrest
      (by rw [hrecord, State.ctx_setCtx_self, Context.look_core hsettings]) (by rw [hrecord]; rfl) (by rw [hrecord]; rfl)
      ((hblocks .lmem (by decide)).trans (s.begin_lmem dt))
    refine ⟨(congrArg Context.state hcore :).trans ?_, (congrArg Context.settings hcore :).trans (Params.optics_eq _ _),
      htook⟩
    refine (followMode_of_resting _ hrest).trans ?_
    rw [Params.optics_eq]
    by_cases h0 : p.p1.toNat % 256 = 0
    · simp [h0]
    · by_cases h1 : p.p1.toNat % 256 = 1 <;> by_cases h2 : p.p1.toNat % 256 = 2 <;> simp [h0, h1, h2]
  · have hrecord : (s.begin dt).recordOptics c p = ((s.begin dt).setCtx c { s.ctx c with
        next := some (p.optics ((s.ctx c).next.getD (s.ctx c).settings)) }).setCtx c (({ s.ctx c with
          next := some (p.optics ((s.ctx c).next.getD (s.ctx c).settings)) } : Context).look p) := by
      rw [State.recordOptics, State.changeSettings_inFrame _ (by rw [State.ctx_begin]; exact not_resting hoff hidle),
        State.ctx_begin, State.ctx_setCtx_self]
    have hcore : (((s.begin dt).takeWith fun u => u.recordOptics c p).settle.ctx c).core =
        (({ s.ctx c with
          next := some (p.optics ((s.ctx c).next.getD (s.ctx c).settings)) } : Context).look p).core := by
      rw [State.settle_ctx_core, State.ctx_takeWith, hrecord, State.ctx_setCtx_self]
    refine ⟨(congrArg Context.state hcore :), ?_, ?_, ?_⟩
    · rw [← byteOf_one, ← viewOf_eq]
      exact (congrArg Context.settings hcore :)
    · rw [← Params.optics_eq]; exact (congrArg Context.next hcore :)
    · refine changes_settle (by simp) (by simp) (by simp) (changes_takeWith (by simp) ?_)
      have hstall : stallOf c ∈ [blockOf c, .crec, .stall0, .stall1, .grant] := by cases c <;> simp [stallOf]
      rw [hrecord]
      exact changes_setCtx _ _ (by simp) hstall (changes_setCtx _ _ (by simp) hstall (State.changesOnly_refl _ _))
  · exact changes_settle (by decide) (by decide) (by decide) (changes_takeWith (by decide)
      (State.changesOnly_mono hblocks (by decide)))

end Sys2Proof.Machine
end

section
/-! PROOFS. The end of a frame and the abort (R145 to R150, R183): what follows the report of a frame is a chain of a few
updates (`Closing`), none of which touches the responses, the head of the write channel or the issued bursts, or moves another
context to another state. -/

namespace Sys2Proof.Machine

/-! ### The updates at the end of a frame -/

/-- A context without a frame, IDLE or OFF (R145 (3), (4)). -/
def Context.AtRest (x : Context) : Prop := x.frame = none ∧ x.geo = none ∧ (x.state = .idle ∨ x.state = .off)

/-- The entries of a table are some of those of another, with the names and the slots they have there. -/
def EpochTable.drawnFrom (m n : EpochTable) : Prop := ∀ e ∈ m.entries, ∃ e' ∈ n.entries, e.id = e'.id ∧ e.slots = e'.slots

/-- The held reads are some of others, with the contexts they wait on there and at most the rows they wait for there. -/
def holdsDrawnFrom (hs ks : List HoldEntry) : Prop :=
  ∀ x ∈ hs, ∃ y ∈ ks, x.waits = y.waits ∧ ∀ r ∈ x.rows, r ∈ y.rows

/-- An update made as a frame of context `c` ends, after its report. -/
inductive Closing (c : Ctx) : State → State → Prop
  | table (s : State) (m : EpochTable) (p : Planner) (hm : m.drawnFrom s.mept) (hp : p.requests = s.bpln.requests) :
      Closing c s ((s.setMept m).setBpln p)
  | plan (s : State) : Closing c s s.plan
  | context (s : State) (d : Ctx) (v : Context)
      (h : d = c ∧ v.AtRest ∨
        v.state = (s.ctx d).state ∧ v.frame = (s.ctx d).frame ∧ v.geo = (s.ctx d).geo) : Closing c s (s.setCtx d v)
  | limit (s : State) (b : Bool) : Closing c s (s.latchIf b .depthLimit)
  | reads (s : State) (rs : List ReadOut) (hs : List HoldEntry) (os : List Output) (h : holdsDrawnFrom hs s.pb.holds) :
      Closing c s ((s.setPb { s.pb with reads := rs, holds := hs }).setOutputs os)
  | split (s : State) (v : LineMemory) : Closing c s (s.setLmem v)

/-- A chain of updates at the end of a frame. -/
def Closings (c : Ctx) : State → State → Prop := Relation.ReflTransGen (Closing c)

section Chains

variable {c : Ctx} {s t u : State}

theorem closings_refl (c : Ctx) (s : State) : Closings c s s := .refl

theorem EpochTable.drawnFrom_self (m : EpochTable) : m.drawnFrom m := fun e he => ⟨e, he, rfl, rfl⟩

theorem closings_plan (h : Closings c s t) : Closings c s t.plan := h.tail (.plan t)

theorem closings_limit (b : Bool) (h : Closings c s t) : Closings c s (t.latchIf b .depthLimit) := h.tail (.limit t b)

theorem closings_split (v : LineMemory) (h : Closings c s t) : Closings c s (t.setLmem v) := h.tail (.split t v)

theorem closings_setCtx {d : Ctx} {v : Context}
    (hv : d = c ∧ v.AtRest ∨ v.state = (t.ctx d).state ∧ v.frame = (t.ctx d).frame ∧ v.geo = (t.ctx d).geo)
    (h : Closings c s t) : Closings c s (t.setCtx d v) := h.tail (.context t d v hv)

theorem closings_setMept {m : EpochTable} (hm : m.drawnFrom t.mept) (h : Closings c s t) : Closings c s (t.setMept m) :=
  h.tail (.table t m t.bpln hm rfl)

theorem closings_examineEntries (h : Closings c s t) : Closings c s t.examineEntries :=
  h.tail (.table t _ _ (fun e he => ⟨e, List.mem_of_mem_filter he, rfl, rfl⟩) (Planner.follow_requests _ _))

/-- Flags of entries change, their slots do not (R62, R65). -/
theorem EpochTable.drawnFrom_map (m : EpochTable) (f : EpochEntry → EpochEntry)
    (hf : ∀ e, (f e).id = e.id ∧ (f e).slots = e.slots) :
    ({ m with entries := m.entries.map f } : EpochTable).drawnFrom m := by
  intro e he
  obtain ⟨x, hx, rfl⟩ := List.mem_map.mp he
  exact ⟨x, hx, hf x⟩

theorem closings_releaseEntry (d : Ctx) (id : Nat) (h : Closings c s t) : Closings c s (t.releaseEntry d id) :=
  closings_setMept (EpochTable.drawnFrom_map _ _ fun e => by split <;> exact ⟨rfl, rfl⟩) h

theorem closings_consumeAll (d : Ctx) (h : Closings c s t) : Closings c s (t.consumeAll d) :=
  closings_setMept (EpochTable.drawnFrom_map _ _ fun _ => ⟨rfl, rfl⟩) h

/-- What releasing reads changes: reads out, the hold queue, and the ports (R16). -/
theorem releaseHolds_eq : ∀ (todo kept : List HoldEntry) (t : State), ∃ rs hs os, hs.Sublist (kept ++ todo) ∧
    releaseHolds t kept todo = (t.setPb { t.pb with reads := rs, holds := hs }).setOutputs os
  | [], kept, t => ⟨t.pb.reads, kept, t.outputs, by simp, rfl⟩
  | x :: todo, kept, t => by
    have hsend : ∃ rs os, t.sendRead x.read x.fate = (t.setPb { t.pb with reads := rs }).setOutputs os := by
      cases x.fate with
      | forward => exact ⟨_, _, rfl⟩
      | answer d => exact ⟨t.pb.reads ++ [⟨x.read.tag, .answering (t.answerBeats d x.read)⟩], t.outputs, rfl⟩
    obtain ⟨rs, os, hsent⟩ := hsend
    unfold releaseHolds; split
    · obtain ⟨rs', hs', os', hsub, heq⟩ := releaseHolds_eq todo kept (t.sendRead x.read x.fate)
      exact ⟨rs', hs', os', hsub.trans ((List.sublist_cons_self x todo).append_left kept), by rw [heq, hsent]; rfl⟩
    · obtain ⟨rs', hs', os', hsub, heq⟩ := releaseHolds_eq todo (kept ++ [x]) t
      exact ⟨rs', hs', os', by simpa using hsub, heq⟩

theorem holdsDrawnFrom_of_sublist {hs ks : List HoldEntry} (h : hs.Sublist ks) : holdsDrawnFrom hs ks :=
  fun x hx => ⟨x, h.subset hx, rfl, fun _ hr => hr⟩

theorem holdsDrawnFrom_trans {hs ks ls : List HoldEntry} (h : holdsDrawnFrom hs ks) (k : holdsDrawnFrom ks ls) :
    holdsDrawnFrom hs ls := by
  intro x hx
  obtain ⟨y, hy, hwaits, hrows⟩ := h x hx
  obtain ⟨z, hz, hwaits', hrows'⟩ := k y hy
  exact ⟨z, hz, hwaits.trans hwaits', fun r hr => hrows' r (hrows r hr)⟩

/-- Rows leave the sets that wait on a context, and the reads that can go are released (R16). -/
theorem State.mapHoldRows_releaseReads (s : State) (d : Ctx) (f : List Nat → List Nat) (hf : ∀ l, ∀ r ∈ f l, r ∈ l) :
    ∃ rs hs os, holdsDrawnFrom hs s.pb.holds ∧ (∀ x ∈ hs, x.waits = some d → ∃ l, x.rows = f l) ∧
      (s.mapHoldRows d f).releaseReads = (s.setPb { s.pb with reads := rs, holds := hs }).setOutputs os := by
  obtain ⟨rs, hs, os, hsub, heq⟩ := releaseHolds_eq (s.mapHoldRows d f).pb.holds [] (s.mapHoldRows d f)
  refine ⟨rs, hs, os, fun x hx => ?_, fun x hx hw => ?_, heq⟩
  · obtain ⟨y, hy, rfl⟩ := List.mem_map.mp (hsub.subset hx)
    refine ⟨y, hy, ?_⟩
    split
    · exact ⟨rfl, hf _⟩
    · exact ⟨rfl, fun _ hr => hr⟩
  · obtain ⟨y, hy, rfl⟩ := List.mem_map.mp (hsub.subset hx)
    split at hw
    · next hy' => exact ⟨y.rows, by rw [if_pos hy']⟩
    · next hy' => exact absurd hw hy'

theorem closings_emptyHolds (d : Ctx) (h : Closings c s t) : Closings c s (t.emptyHolds d) := by
  obtain ⟨rs, hs, os, hdrawn, _, heq⟩ := t.mapHoldRows_releaseReads d (fun _ => []) fun _ _ hr => absurd hr List.not_mem_nil
  rw [State.emptyHolds, heq]
  exact h.tail (.reads t rs hs os hdrawn)

/-! ### What the chain keeps -/

/-- What holds at the start of a chain and is kept by each update holds at its end. -/
theorem Closings.keeps {Q : State → Prop} (hQ : ∀ s t, Closing c s t → Q s → Q t) (h : Closings c s t) (hs : Q s) :
    Q t := by
  induction h with
  | refl => exact hs
  | tail _ k ih => exact hQ _ _ k ih

/-- An update leaves the contexts' lapsed requests lapsed (R98). -/
theorem Closing.requests (h : Closing c s t) (d : Ctx) (hs : s.bpln.requests.get d = none) :
    t.bpln.requests.get d = none := by
  cases h with
  | table m p hm hp => rw [State.setBpln_bpln, hp]; exact hs
  | plan => exact ((plans_plan (plans_refl (fun _ => False) s)).quiet d id hs).1
  | _ => exact hs

/-- An update leaves the context whose frame has ended at rest. -/
theorem Closing.atRest (h : Closing c s t) (hs : (s.ctx c).AtRest) : (t.ctx c).AtRest := by
  cases h with
  | plan => rwa [((plans_plan (plans_refl (fun _ => False) s)).ctx c).noFrame hs.1]
  | context d v hv =>
    by_cases hd : c = d
    · subst hd
      rw [State.ctx_setCtx_self]
      rcases hv with ⟨_, hv⟩ | ⟨hstate, hframe, hgeo⟩
      · exact hv
      · rwa [Context.AtRest, hstate, hframe, hgeo]
    · rwa [State.ctx_setCtx_other _ _ hd]
  | _ => exact hs

/-- An update leaves the other context in its state. -/
theorem Closing.state_other {d : Ctx} (hd : d ≠ c) (h : Closing c s t) : (t.ctx d).state = (s.ctx d).state := by
  cases h with
  | plan => exact ((plans_plan (plans_refl (fun _ => False) s)).ctx d).state_eq
  | context e v hv =>
    by_cases he : d = e
    · subst he
      rw [State.ctx_setCtx_self]
      rcases hv with ⟨hdc, _⟩ | ⟨hstate, _, _⟩
      · exact absurd hdc hd
      · exact hstate
    · rw [State.ctx_setCtx_other _ _ he]
  | _ => rfl

/-- Of the port bridge an update changes the reads out and the held reads at most. -/
theorem Closing.pb (h : Closing c s t) : t.pb = { s.pb with reads := t.pb.reads, holds := t.pb.holds } := by
  cases h with
  | plan =>
    have hpb : s.plan.pb = s.pb := changes_plan (State.changesOnly_refl s planBlocks) .pb (by decide)
    rw [hpb]
  | _ => rfl

theorem Closing.holds (h : Closing c s t) : holdsDrawnFrom t.pb.holds s.pb.holds := by
  cases h with
  | plan =>
    have hpb : s.plan.pb = s.pb := changes_plan (State.changesOnly_refl s planBlocks) .pb (by decide)
    rw [hpb]
    exact holdsDrawnFrom_of_sublist (List.Sublist.refl _)
  | reads rs hs os hdrawn => exact hdrawn
  | _ => exact holdsDrawnFrom_of_sublist (List.Sublist.refl _)

/-- Of the arbiter an update changes the runs presented at most. -/
theorem Closing.warb (h : Closing c s t) : { t.warb with runs := s.warb.runs } = s.warb := by
  cases h with
  | plan => exact (plans_plan (plans_refl (fun _ => False) s)).warb.rest
  | _ => rfl

theorem Closing.rpw (h : Closing c s t) : t.rpw = s.rpw := by
  cases h with
  | plan => exact changes_plan (State.changesOnly_refl s planBlocks) .rpw (by decide)
  | _ => rfl

/-- No request is outstanding, the tables are those of `s`, and every entry has the slots it has there. -/
def State.unplannedSince (s t : State) : Prop :=
  (∀ d, t.bpln.requests.get d = none) ∧ t.psto = s.psto ∧ t.mept.drawnFrom s.mept

/-- Without a request outstanding an update plans nothing. -/
theorem Closing.unplanned {r : State} (h : Closing c s t) (hs : r.unplannedSince s) : r.unplannedSince t := by
  obtain ⟨hreq, hpsto, hdrawn⟩ := hs
  have hreq' : ∀ d, t.bpln.requests.get d = none := fun d => h.requests d (hreq d)
  cases h with
  | plan => rw [State.plan_of_unrequested hreq]; exact ⟨hreq, hpsto, hdrawn⟩
  | table m p hm hp =>
    refine ⟨hreq', hpsto, fun e he => ?_⟩
    obtain ⟨x, hx, hid, hslots⟩ := hm e he
    obtain ⟨y, hy, hid', hslots'⟩ := hdrawn x hx
    exact ⟨y, hy, hid.trans hid', hslots.trans hslots'⟩
  | _ => exact ⟨hreq', hpsto, hdrawn⟩

/-! ### The end of a frame (R145, R148) -/

theorem Context.took_atRest {x : Context} (st : Settings) (share : Nat) (h : x.AtRest) : (x.took st share).AtRest := by
  obtain ⟨hframe, hgeo, hstate⟩ := h
  refine ⟨hframe, hgeo, ?_⟩
  show followMode st.mode x.state = .idle ∨ followMode st.mode x.state = .off
  rw [followMode_of_resting _ ((CtxState.resting_iff _).mpr hstate.symm)]
  split
  · exact .inr rfl
  · exact .inl rfl

theorem closings_applySettings (st : Settings) (hrest : (t.ctx c).AtRest) (h : Closings c s t) :
    Closings c s (t.applySettings c st) := by
  have hput : Closings c s (t.put c st) :=
    closings_limit _ (closings_setCtx (.inl ⟨rfl, Context.took_atRest _ _ hrest⟩) h)
  rw [State.applySettings_eq]
  split
  · exact hput
  · split
    · exact closings_plan (closings_examineEntries hput)
    · exact closings_plan (closings_examineEntries (closings_consumeAll c hput))

theorem closings_applyNext (hrest : (t.ctx c).AtRest) (h : Closings c s t) : Closings c s (t.applyNext c) := by
  unfold State.applyNext; split
  · exact h
  · refine closings_applySettings _ ?_ (closings_setCtx (.inr ⟨rfl, rfl, rfl⟩) h)
    rw [State.ctx_setCtx_self]; exact hrest

theorem closings_redepth (d : Ctx) (h : Closings c s t) : Closings c s (t.redepth d) :=
  closings_limit _ (closings_setCtx (.inr ⟨rfl, rfl, rfl⟩) h)

theorem closings_applyHeldSplit (h : Closings c s t) : Closings c s t.applyHeldSplit := by
  unfold State.applyHeldSplit; split
  · exact h
  · split
    · exact closings_redepth _ (closings_redepth _ (closings_split _ (closings_split _ h)))
    · exact h

theorem Context.toIdle_atRest (x : Context) : x.toIdle.AtRest := ⟨rfl, rfl, .inl rfl⟩

/-- A frame ends with its report and a chain of updates, which leaves its context at rest (R145). -/
theorem State.endFrame_closes (s : State) (c : Ctx) (f : Frame) (o : FrameOutcome) :
    Closings c (s.generate (s.frameReport c f.entry o f.account)) (s.endFrame c f o) ∧ ((s.endFrame c f o).ctx c).AtRest := by
  set r := s.generate (s.frameReport c f.entry o f.account)
  set u := (((r.releaseEntry c f.entry).examineEntries).plan).setCtx c
    ((((r.releaseEntry c f.entry).examineEntries).plan).ctx c).toIdle with hu
  have hrelease : Closings c r u := closings_setCtx (.inl ⟨rfl, Context.toIdle_atRest _⟩)
    (closings_plan (closings_examineEntries (closings_releaseEntry c f.entry (closings_refl c r))))
  have hidle : (u.ctx c).AtRest := by rw [hu, State.ctx_setCtx_self]; exact Context.toIdle_atRest _
  have hempty : Closings c u (u.emptyHolds c) := closings_emptyHolds c (closings_refl c u)
  have hrest : ((u.emptyHolds c).ctx c).AtRest := hempty.keeps (fun _ _ k => k.atRest) hidle
  have hrest' : Closings c u (s.endFrame c f o) := closings_applyHeldSplit (closings_applyNext hrest hempty)
  exact ⟨Relation.ReflTransGen.trans hrelease hrest', hrest'.keeps (fun _ _ k => k.atRest) hidle⟩

/-- What the end of a frame of context `c` leaves: lapsed requests, the other context's state, the port bridge but for its
reads, the arbiter but for its runs, and, with no request outstanding, the tables and the slots. -/
structure Leaves (c : Ctx) (s t : State) : Prop where
  requests : ∀ d, s.bpln.requests.get d = none → t.bpln.requests.get d = none
  states : ∀ d, d ≠ c → (t.ctx d).state = (s.ctx d).state
  pb : t.pb = { s.pb with reads := t.pb.reads, holds := t.pb.holds }
  holds : holdsDrawnFrom t.pb.holds s.pb.holds
  warb : { t.warb with runs := s.warb.runs } = s.warb
  unplanned : ∀ r : State, r.unplannedSince s → r.unplannedSince t

theorem leaves_refl (c : Ctx) (s : State) : Leaves c s s where
  requests _ h := h
  states _ _ := rfl
  pb := rfl
  holds := holdsDrawnFrom_of_sublist (List.Sublist.refl _)
  warb := rfl
  unplanned _ h := h

theorem leaves_trans (h : Leaves c s t) (k : Leaves c t u) : Leaves c s u where
  requests d hd := k.requests d (h.requests d hd)
  states d hd := (k.states d hd).trans (h.states d hd)
  pb := by rw [k.pb, h.pb]
  holds := holdsDrawnFrom_trans k.holds h.holds
  warb := by
    have hw : u.warb = { t.warb with runs := u.warb.runs } := by rw [← k.warb]
    have ht : t.warb = { s.warb with runs := t.warb.runs } := by rw [← h.warb]
    rw [hw, ht]
  unplanned r hr := k.unplanned r (h.unplanned r hr)

theorem Closings.leaves (h : Closings c s t) : Leaves c s t :=
  h.keeps (fun _ _ k hs => leaves_trans hs
    ⟨k.requests, fun _ hd => k.state_other hd, k.pb, k.holds, k.warb, fun _ => k.unplanned⟩) (leaves_refl c s)

/-- A report changes of the arbiter the runs presented at most (R176, R177). -/
theorem State.generate_warb (s : State) (r : Report) : { (s.generate r).warb with runs := s.warb.runs } = s.warb := by
  unfold State.generate State.queueReport State.presentReport
  split
  · rfl
  · split
    · split <;> rfl
    · rfl

theorem leaves_generate (r : Report) : Leaves c s (s.generate r) := by
  have hblocks : s.changesOnly (s.generate r) [.rpw, .warb, .evu] :=
    changes_generate r (by decide) (by decide) (by decide) (State.changesOnly_refl _ _)
  have hbpln : (s.generate r).bpln = s.bpln := hblocks .bpln (by decide)
  have hpb : (s.generate r).pb = s.pb := hblocks .pb (by decide)
  have hmept : (s.generate r).mept = s.mept := hblocks .mept (by decide)
  have hpsto : (s.generate r).psto = s.psto := hblocks .psto (by decide)
  refine ⟨fun d h => by rwa [hbpln], fun d _ => ?_, by rw [hpb], ?_, s.generate_warb r, fun q hq => ?_⟩
  · have hunstalled := State.sameIn_ctx (hblocks (blockOf d) (by cases d <;> decide))
    exact (congrArg Context.state (Context.unstalled_core hunstalled) :)
  · rw [hpb]; exact holdsDrawnFrom_of_sublist (List.Sublist.refl _)
  · rwa [State.unplannedSince, hbpln, hpsto, hmept]

theorem leaves_endFrame (f : Frame) (o : FrameOutcome) : Leaves c s (s.endFrame c f o) :=
  leaves_trans (leaves_generate _) (s.endFrame_closes c f o).1.leaves

/-- The end of a frame generates one report (R145 (1)). -/
theorem State.endFrame_nextSeq (s : State) (c : Ctx) (f : Frame) (o : FrameOutcome) :
    (s.endFrame c f o).rpw.nextSeq = if s.rpw.slots = 0 then s.rpw.nextSeq else s.rpw.nextSeq + 1 := by
  have hrpw : (s.endFrame c f o).rpw = (s.generate (s.frameReport c f.entry o f.account)).rpw :=
    (s.endFrame_closes c f o).1.keeps (Q := fun u => u.rpw = (s.generate (s.frameReport c f.entry o f.account)).rpw)
      (fun _ _ k hs => k.rpw.trans hs) rfl
  rw [hrpw, State.generate_nextSeq]

/-! ### The drain of an aborted frame (R147, R148) -/

theorem leaves_setCtx (v : Context) : Leaves c s (s.setCtx c v) :=
  { leaves_refl c s with states := fun d hd => by rw [State.ctx_setCtx_other _ _ hd] }

theorem leaves_requestRow (d : Ctx) (y n : Nat) (raw : Bool) : Leaves c s (s.requestRow d y n raw) := by
  unfold State.requestRow; split
  · exact leaves_refl c s
  · exact { leaves_refl c s with warb := rfl }

theorem leaves_drain : Leaves c s (s.drain c) := by
  unfold State.drain; split
  · exact leaves_refl c s
  · dsimp only
    split
    · split
      · exact leaves_trans (leaves_setCtx _) (leaves_requestRow _ _ _ _)
      · split
        · exact leaves_trans (leaves_setCtx _) (leaves_endFrame _ _)
        · exact leaves_setCtx _
    · exact leaves_refl c s

@[simp] theorem State.ctx_requestRow (s : State) (d : Ctx) (y n : Nat) (raw : Bool) (e : Ctx) :
    (s.requestRow d y n raw).ctx e = s.ctx e := by
  unfold State.requestRow; split <;> rfl

/-- The drain of context `c` leaves its frame as it was or with the drain begun, or ends it (R147, R148). -/
theorem State.drain_ctx (s : State) (c : Ctx) :
    (s.drain c).ctx c = s.ctx c ∨
      (∃ f, (s.ctx c).frame = some f ∧ (s.drain c).ctx c = { s.ctx c with frame := some f.beginDrain }) ∨
      ((s.drain c).ctx c).AtRest := by
  unfold State.drain; split
  · exact .inl rfl
  · next f hf =>
    dsimp only
    split
    · split
      · exact .inr (.inl ⟨f, hf, by rw [State.ctx_requestRow, State.ctx_setCtx_self]⟩)
      · split
        · exact .inr (.inr (State.endFrame_closes _ _ _ _).2)
        · exact .inr (.inl ⟨f, hf, by rw [State.ctx_setCtx_self]⟩)
    · exact .inl rfl

theorem Frame.beginDrain_keeps (f : Frame) :
    f.beginDrain.outcome = f.outcome ∧ f.beginDrain.stall = f.stall ∧ f.beginDrain.unretired = f.unretired := by
  unfold Frame.beginDrain; split <;> exact ⟨rfl, rfl, rfl⟩

/-- What the drain keeps of a frame it does not end. -/
theorem State.drain_frame {s : State} {c : Ctx} {g : Frame} (hg : ((s.drain c).ctx c).frame = some g) :
    ((s.drain c).ctx c).state = (s.ctx c).state ∧
      ∃ f, (s.ctx c).frame = some f ∧ g.outcome = f.outcome ∧ g.stall = f.stall ∧ g.unretired = f.unretired := by
  rcases s.drain_ctx c with h | ⟨f, hf, h⟩ | h
  · rw [h] at hg ⊢
    exact ⟨rfl, g, hg, rfl, rfl, rfl⟩
  · rw [h] at hg ⊢
    obtain rfl : f.beginDrain = g := Option.some.inj hg
    exact ⟨rfl, f, hf, f.beginDrain_keeps⟩
  · rw [h.1] at hg; cases hg

theorem State.drain_notInFrame {s : State} {c : Ctx} (h : (s.ctx c).state.inFrame = false) :
    ((s.drain c).ctx c).state.inFrame = false := by
  rcases s.drain_ctx c with hd | ⟨f, _, hd⟩ | ⟨_, _, hd | hd⟩
  · rw [hd]; exact h
  · rw [hd]; exact h
  · rw [hd]; rfl
  · rw [hd]; rfl

/-! ### The abort (R146) -/

/-- What the beginning of an abort leaves (R146). -/
theorem State.beginAbort_spec {s : State} {c : Ctx} (o : FrameOutcome) (h : (s.ctx c).state.inFrame = true) :
    (s.beginAbort c o).ctx c =
        { (s.ctx c).mapFrame fun f => { f with outcome := o, stall := none } with state := .aborting } ∧
      (∀ d, d ≠ c → (s.beginAbort c o).ctx d = s.ctx d) ∧
      (s.beginAbort c o).bpln.requests = s.bpln.requests.set c none ∧ (s.beginAbort c o).has .frameAbort ∧
      (s.beginAbort c o).pb = s.pb ∧ (s.beginAbort c o).psto = s.psto ∧ (s.beginAbort c o).mept = s.mept := by
  rw [State.beginAbort, if_pos h]
  refine ⟨?_, fun d hd => ?_, rfl, State.has_latch _ _, rfl, rfl, rfl⟩
  · exact State.ctx_setCtx_self _ _ _
  · exact State.ctx_setCtx_other _ _ hd

/-- An aborted frame of context `c`: FRAME_ABORT is latched, the context is in no frame that can abort, its request has
lapsed, and a frame it still has is in ABORTING with the outcome (R146 to R148). -/
structure State.Aborted (t : State) (c : Ctx) (o : FrameOutcome) : Prop where
  event : t.has .frameAbort
  state : (t.ctx c).state.inFrame = false
  request : t.bpln.requests.get c = none
  frame : ∀ g, (t.ctx c).frame = some g → (t.ctx c).state = .aborting ∧ g.outcome = o ∧ g.stall = none

theorem State.abort_aborted {s : State} {c : Ctx} (o : FrameOutcome) (h : (s.ctx c).state.inFrame = true) :
    (s.abort c o).Aborted c o := by
  obtain ⟨hctx, _, hreq, hevent, _⟩ := State.beginAbort_spec o h
  have habort : s.abort c o = (s.beginAbort c o).drain c := if_pos h
  have hstate : ((s.beginAbort c o).ctx c).state = .aborting := by rw [hctx]
  rw [habort]
  refine ⟨(inners_drain c (inners_refl _)).keeps_event _ hevent, ?_, ?_, fun g hg => ?_⟩
  · exact State.drain_notInFrame (by rw [hstate]; rfl)
  · exact leaves_drain.requests c (by rw [hreq, Both.get_set_self])
  · obtain ⟨hst, f, hf, hout, hstall, _⟩ := State.drain_frame hg
    rw [hctx, Context.mapFrame] at hf
    obtain ⟨x, _, rfl⟩ := Option.map_eq_some_iff.mp hf
    exact ⟨hst.trans hstate, hout, hstall⟩

theorem State.abort_pb (s : State) (c : Ctx) (o : FrameOutcome) :
    (s.abort c o).pb = { s.pb with reads := (s.abort c o).pb.reads, holds := (s.abort c o).pb.holds } := by
  by_cases h : (s.ctx c).state.inFrame = true
  · obtain ⟨_, _, _, _, hpb, _⟩ := State.beginAbort_spec o h
    rw [show s.abort c o = (s.beginAbort c o).drain c from if_pos h, leaves_drain.pb, hpb]
  · rw [show s.abort c o = s from if_neg h]

/-! ### The end of the command -/

/-- At the end of a command a context's stall timer follows, and nothing else of it changes (R149). -/
theorem State.settle_ctx (s : State) (c : Ctx) :
    s.settle.ctx c = (s.ctx c).mapFrame fun f => f.restall (s.stallRuns c) s.time := by
  cases c <;> rfl

theorem State.settle_state (s : State) (c : Ctx) : (s.settle.ctx c).state = (s.ctx c).state := by
  rw [State.settle_ctx]; rfl

theorem State.settle_frame {s : State} {c : Ctx} {g : Frame} (h : (s.settle.ctx c).frame = some g) :
    ∃ f, (s.ctx c).frame = some f ∧ g = f.restall (s.stallRuns c) s.time := by
  rw [State.settle_ctx] at h
  obtain ⟨f, hf, rfl⟩ := Option.map_eq_some_iff.mp h
  exact ⟨f, hf, rfl⟩

/-- The end of the command leaves an abort as it is: outside RUNNING the stall timer stands. -/
theorem State.Aborted.settle {t : State} {o : FrameOutcome} (h : t.Aborted c o) : t.settle.Aborted c o := by
  refine ⟨State.has_settle h.event, ?_, ?_, fun g hg => ?_⟩
  · rw [State.settle_state]; exact h.state
  · rw [State.settle_bpln]; exact h.request
  · obtain ⟨f, hf, rfl⟩ := State.settle_frame hg
    obtain ⟨hstate, hout, _⟩ := h.frame f hf
    refine ⟨by rw [State.settle_state, hstate], hout, ?_⟩
    have hruns : t.stallRuns c = false := by rw [State.stallRuns, hstate]; rfl
    rw [Frame.restall, hruns]; rfl

end Chains

/-! ### STALL_TIMEOUT, RESET of scope CONTEXT and of scope ALL (R149, R150, R183) -/

theorem exec_stallTimeout (dt : Nat) (c : Ctx) (s : State) : exec (.stallTimeout dt c) s = execStallTimeout dt c s := rfl

theorem exec_resetContext (dt : Nat) (c : Ctx) (s : State) : exec (.resetContext dt c) s = execResetContext dt c s := rfl

theorem exec_resetAll (dt : Nat) (s : State) : exec (.resetAll dt) s = execResetAll dt s := rfl

theorem not_inFrame {x : CtxState} (h : x.inFrame = false) : x ≠ .running ∧ x ≠ .finishing := by
  constructor <;> rintro rfl <;> cases h

/-- Settles O35: the timer is due, and the frame aborts (R146, R149). -/
theorem stallTimeoutAbortsTheFrame : Obligations.StallTimeoutAbortsTheFrame := by
  intro dt c f t0 s hpart hstate hframe hstall hdue hheld
  have hin : ((s.begin dt).ctx c).state.inFrame = true := by rw [State.ctx_begin, hstate]; rfl
  have hstallDue : (s.begin dt).stallDue c = true := by
    simp only [State.stallDue, State.ctx_begin, hframe, hstall, hstate, State.begin_time, if_neg hpart]
    simpa using hdue
  have hpb := (s.begin dt).abort_pb c .abortStall
  have hexec : exec (.stallTimeout dt c) s = .next ((s.begin dt).abort c .abortStall).settle := by
    rw [exec_stallTimeout, execStallTimeout, if_pos hstallDue, State.reofferAfterIdle_of_free]
    rw [hpb, State.begin_pb]; exact hheld
  have habort : ((s.begin dt).abort c .abortStall).settle.Aborted c .abortStall := (State.abort_aborted _ hin).settle
  obtain ⟨hrun, hfin⟩ := not_inFrame habort.state
  refine ⟨_, hexec, habort.event, hrun, hfin, habort.request, habort.frame, ?_, ?_⟩
  · rw [State.settle_pb, hpb, State.begin_pb]
  · exact changes_settle (by decide) (by decide) (by decide)
      (State.changesOnly_mono (changes_abort c _ (State.changesOnly_refl _ _)) (by decide))

/-- Settles O52: a frame that can abort does; otherwise nothing happens (R150). -/
theorem resetContextAbortsItsFrame : Obligations.ResetContextAbortsItsFrame := by
  intro dt c s htakes
  have hblocks : (s.begin dt).changesOnly ((s.begin dt).recordResetContext c) frameBlocks :=
    changes_abort c _ (State.changesOnly_refl _ _)
  refine ⟨_, by rw [exec_resetContext, execResetContext, exec_takenSettled _ htakes], ?_, fun hframe => ?_, ?_,
    fun hrest => ?_⟩
  · rw [State.settle_crec]
    exact State.takeWith_crec_of_kept (hblocks .crec (by decide))
  · have habort : ((s.begin dt).recordResetContext c).Aborted c .abortReset :=
      State.abort_aborted _ (by rw [State.ctx_begin, CtxState.inFrame_iff]; exact hframe)
    have htaken : ((s.begin dt).takeWith fun y => y.recordResetContext c).Aborted c .abortReset :=
      ⟨habort.event, habort.state, habort.request, habort.frame⟩
    have hsettled := htaken.settle
    obtain ⟨hrun, hfin⟩ := not_inFrame hsettled.state
    exact ⟨hsettled.event, hrun, hfin, hsettled.request, fun g hg _ => (hsettled.frame g hg).2.1⟩
  · exact changes_settle (by decide) (by decide) (by decide) (changes_takeWith (by decide)
      (State.changesOnly_mono hblocks (by decide)))
  · have hnone : (s.begin dt).recordResetContext c = s.begin dt := by
      refine if_neg ?_
      rw [State.ctx_begin]
      rcases hrest with h | h | h <;> rw [h] <;> decide
    refine changes_settle (by decide) (by decide) (by decide) (changes_takeWith (by decide) ?_)
    rw [hnone]
    exact State.changesOnly_refl _ _

/-- Where no context is in a frame that can abort, a drain leaves it so (R147). -/
theorem State.drain_allOut {s : State} {c : Ctx} (h : ∀ d, (s.ctx d).state.inFrame = false) (d : Ctx) :
    ((s.drain c).ctx d).state.inFrame = false := by
  by_cases hd : d = c
  · subst hd; exact State.drain_notInFrame (h d)
  · rw [leaves_drain.states d hd]; exact h d

/-- The beginning of an abort, whether or not the context has a frame that can abort. -/
theorem State.beginAbort_out (s : State) (c : Ctx) (o : FrameOutcome) :
    ((s.beginAbort c o).ctx c).state.inFrame = false ∧ (∀ d, d ≠ c → (s.beginAbort c o).ctx d = s.ctx d) ∧
      ((s.ctx c).state.inFrame = true → (s.beginAbort c o).has .frameAbort) ∧
      ((s.ctx c).state.inFrame = true → (s.beginAbort c o).bpln.requests.get c = none) ∧
      (∀ d, s.bpln.requests.get d = none → (s.beginAbort c o).bpln.requests.get d = none) ∧
      (s.beginAbort c o).pb = s.pb ∧ (s.beginAbort c o).psto = s.psto ∧ (s.beginAbort c o).mept = s.mept := by
  by_cases h : (s.ctx c).state.inFrame = true
  · obtain ⟨hctx, hother, hreq, hevent, hpb, hpsto, hmept⟩ := State.beginAbort_spec o h
    refine ⟨by rw [hctx]; rfl, hother, fun _ => hevent, fun _ => by rw [hreq, Both.get_set_self], fun d hd => ?_, hpb,
      hpsto, hmept⟩
    rw [hreq]
    by_cases hdc : d = c
    · subst hdc; exact Both.get_set_self _ _ _
    · rwa [Both.get_set_other _ _ hdc]
  · rw [State.beginAbort_resting c o (by simpa using h)]
    exact ⟨by simpa using h, fun _ _ => rfl, fun k => absurd k h, fun k => absurd k h, fun _ hd => hd, rfl, rfl, rfl⟩

/-- Both contexts have begun to abort, and neither has begun to drain (R183 (1)). -/
def State.beginBoth (s : State) (o : FrameOutcome) : State := (s.beginAbort .ctx0 o).beginAbort .ctx1 o

theorem State.beginBoth_spec (s : State) (o : FrameOutcome) :
    (∀ d, ((s.beginBoth o).ctx d).state.inFrame = false) ∧
      (∀ c, (s.ctx c).state.inFrame = true →
        (s.beginBoth o).has .frameAbort ∧ (s.beginBoth o).bpln.requests.get c = none) ∧
      (s.beginBoth o).pb = s.pb ∧ (s.beginBoth o).psto = s.psto ∧ (s.beginBoth o).mept = s.mept := by
  obtain ⟨hout0, hother0, hevent0, hreq0, _, hpb0, hpsto0, hmept0⟩ := s.beginAbort_out .ctx0 o
  obtain ⟨hout1, hother1, hevent1, hreq1, hkeep1, hpb1, hpsto1, hmept1⟩ := (s.beginAbort .ctx0 o).beginAbort_out .ctx1 o
  refine ⟨fun d => ?_, fun c hc => ?_, hpb1.trans hpb0, hpsto1.trans hpsto0, hmept1.trans hmept0⟩
  · cases d with
    | ctx0 => rw [State.beginBoth, hother1 _ (by decide)]; exact hout0
    | ctx1 => exact hout1
  · cases c with
    | ctx0 => exact ⟨(inners_beginAbort .ctx1 o (inners_refl _)).keeps_event _ (hevent0 hc), hkeep1 _ (hreq0 hc)⟩
    | ctx1 =>
      rw [← hother0 .ctx1 (by decide)] at hc
      exact ⟨hevent1 hc, hreq1 hc⟩

/-- What the two drains of a RESET ALL keep. -/
theorem State.abortBoth_keeps {Q : State → Prop} (s : State) (o : FrameOutcome)
    (hQ : ∀ (u : State) (c : Ctx), Q u → Q (u.drain c)) (h : Q (s.beginBoth o)) : Q (s.abortBoth o) := by
  have hif : ∀ (u : State) (b : Bool) (c : Ctx), Q u → Q (if b = true then u.drain c else u) := by
    intro u b c hu
    split
    · exact hQ u c hu
    · exact hu
  exact hif _ _ .ctx1 (hif _ _ .ctx0 h)

theorem State.recordResetAll_ready {s : State} (h : s.isReady = true) :
    s.recordResetAll = (s.setStl { s.stl with pendingReset := true }).abortBoth .abortReset := if_pos h

/-- Settles O51: both frames have begun to abort before either drains, so with both in frames nothing is planned any more
(R146, R183 (1)). -/
theorem resetAllBecomesPendingAndAborts : Obligations.ResetAllBecomesPendingAndAborts := by
  intro dt s htakes
  set u := (s.begin dt).setStl { s.stl with pendingReset := true } with hu
  have hctx : ∀ c, u.ctx c = s.ctx c := fun c => by rw [hu, State.ctx_setStl, State.ctx_begin]
  have hrecord : (s.begin dt).recordResetAll = u.abortBoth .abortReset := by
    rw [State.recordResetAll_ready (by rw [State.begin_isReady]; exact State.isReady_of_takesRecords htakes), State.begin_stl]
  obtain ⟨hout, hbegun, hpb, hpsto, hmept⟩ := u.beginBoth_spec .abortReset
  have hblocks : u.changesOnly (u.abortBoth .abortReset) frameBlocks := changes_abortBoth _ (State.changesOnly_refl _ _)
  have hnone : ∀ d, ((u.abortBoth .abortReset).ctx d).state.inFrame = false :=
    u.abortBoth_keeps .abortReset (Q := fun v => ∀ d, (v.ctx d).state.inFrame = false)
      (fun v c hv => State.drain_allOut hv) hout
  refine ⟨_, by rw [exec_resetAll, execResetAll, exec_takenSettled _ htakes, State.takeWith, hrecord], ?_, fun c => ?_,
    fun c hc => ⟨?_, ?_⟩, fun hboth => ?_, ?_, ?_, ?_⟩
  · rw [State.settle_stl, State.setCrec_stl, hblocks .stl (by decide)]; rfl
  · rw [State.settle_state]
    exact not_inFrame (hnone c)
  · refine State.has_settle (s := (u.abortBoth .abortReset).setCrec _) (e := .frameAbort) ?_
    refine u.abortBoth_keeps .abortReset (Q := fun v => v.has .frameAbort)
      (fun v d hv => (inners_drain d (inners_refl v)).keeps_event _ hv) (hbegun c ?_).1
    rw [hctx, CtxState.inFrame_iff]; exact hc
  · rw [State.settle_bpln]
    refine u.abortBoth_keeps .abortReset (Q := fun v => v.bpln.requests.get c = none)
      (fun v d hv => leaves_drain.requests c hv) (hbegun c ?_).2
    rw [hctx, CtxState.inFrame_iff]; exact hc
  · have hstart : s.unplannedSince (u.beginBoth .abortReset) := by
      refine ⟨fun d => (hbegun d ?_).2, ?_, ?_⟩
      · rw [hctx, CtxState.inFrame_iff]; exact hboth d
      · rw [hpsto, hu, State.setStl_psto, State.begin_psto]
      · rw [hmept, hu, State.setStl_mept, State.begin_mept]; exact EpochTable.drawnFrom_self _
    obtain ⟨_, hkept, hdrawn⟩ := u.abortBoth_keeps .abortReset (Q := fun v => s.unplannedSince v)
      (fun v d hv => leaves_drain.unplanned s hv) hstart
    rw [State.settle_psto, State.settle_mept]
    exact ⟨hkept, hdrawn⟩
  · rw [State.settle_crec, State.setCrec_crec, hblocks .crec (by decide), hu, State.setStl_crec, State.begin_crec]; rfl
  · have hresp := u.abortBoth_keeps .abortReset (Q := fun v => v.pb.responses = s.pb.responses)
      (fun v d hv => by rw [leaves_drain.pb]; exact hv) (by rw [hpb, hu, State.setStl_pb, State.begin_pb])
    rw [State.settle_pb]; exact hresp
  · refine changes_settle (by decide) (by decide) (by decide) (changes_setCrec _ (by decide) ?_)
    exact State.changesOnly_trans (changes_setStl _ (by decide) (State.changesOnly_refl _ _))
      (State.changesOnly_mono hblocks (by decide))

end Sys2Proof.Machine
end

section
/-! PROOFS. Responses to EMIT and REPORT bursts (R144, R145, R161, R162, R177), and the bursts issued (R142, R143, R147,
R155 to R158). -/

namespace Sys2Proof.Machine

/-! ### A row retires (R144, R145) -/

/-- A frame after row `y` has retired (R144). -/
def Frame.retire (f : Frame) (y : Nat) : Frame := { f with unretired := f.unretired.filter fun r => decide (r ≠ y) }

/-- A row retires in the hold queue: every set that waits on its context loses it (R16 (1)). -/
theorem State.retireInHolds_eq (s : State) (c : Ctx) (y : Nat) :
    ∃ rs hs os, holdsDrawnFrom hs s.pb.holds ∧ (∀ x ∈ hs, x.waits = some c → y ∉ x.rows) ∧
      s.retireInHolds c y = (s.setPb { s.pb with reads := rs, holds := hs }).setOutputs os := by
  obtain ⟨rs, hs, os, hdrawn, hrows, heq⟩ := s.mapHoldRows_releaseReads c (fun rows => rows.filter fun r => decide (r ≠ y))
    fun _ _ hr => List.mem_of_mem_filter hr
  refine ⟨rs, hs, os, hdrawn, fun x hx hw => ?_, heq⟩
  obtain ⟨l, hl⟩ := hrows x hx hw
  rw [hl]
  simp

/-- The state in which row `y` of context `c` has retired, before its frame ends or its drain goes on. -/
def State.rowRetired (s : State) (c : Ctx) (y : Nat) : State := (s.mapFrame c fun f => f.retire y).retireInHolds c y

theorem State.retireRow_eq (s : State) (c : Ctx) (y : Nat) :
    s.retireRow c y =
      if ((s.rowRetired c y).ctx c).state = .aborting then (s.rowRetired c y).drain c
      else (s.rowRetired c y).finishIfComplete c := rfl

theorem State.rowRetired_spec (s : State) (c : Ctx) (y : Nat) :
    Leaves c s (s.rowRetired c y) ∧ (s.rowRetired c y).ctx c = (s.ctx c).mapFrame (fun f => f.retire y) ∧
      (s.rowRetired c y).rpw = s.rpw ∧ ∀ x ∈ (s.rowRetired c y).pb.holds, x.waits = some c → y ∉ x.rows := by
  obtain ⟨rs, hs, os, hdrawn, hrows, heq⟩ := (s.mapFrame c fun f => f.retire y).retireInHolds_eq c y
  have hreads : Closing c (s.mapFrame c fun f => f.retire y) (s.rowRetired c y) := by
    rw [State.rowRetired, heq]; exact .reads _ rs hs os hdrawn
  refine ⟨leaves_trans (leaves_setCtx _) (Closings.leaves (.single hreads)), ?_, hreads.rpw, ?_⟩
  · rw [State.rowRetired, heq, State.ctx_setOutputs, State.ctx_setPb]
    exact State.ctx_setCtx_self _ _ _
  · rw [State.rowRetired, heq]; exact hrows

theorem leaves_finishIfComplete {c : Ctx} {s : State} : Leaves c s (s.finishIfComplete c) := by
  unfold State.finishIfComplete; split
  · exact leaves_refl c s
  · exact leaves_endFrame _ _

theorem leaves_retireRow (s : State) (c : Ctx) (y : Nat) : Leaves c s (s.retireRow c y) := by
  rw [State.retireRow_eq]; split
  · exact leaves_trans (s.rowRetired_spec c y).1 leaves_drain
  · exact leaves_trans (s.rowRetired_spec c y).1 leaves_finishIfComplete

/-- After a row retires no waiting read of its context has it in its set (R16 (1), R144). -/
theorem State.retireRow_holds (s : State) (c : Ctx) (y : Nat) :
    ∀ x ∈ (s.retireRow c y).pb.holds, x.waits = some c → y ∉ x.rows := by
  have hleaves : Leaves c (s.rowRetired c y) (s.retireRow c y) := by
    rw [State.retireRow_eq]; split
    · exact leaves_drain
    · exact leaves_finishIfComplete
  intro x hx hw hy
  obtain ⟨z, hz, hwaits, hrows⟩ := hleaves.holds x hx
  exact (s.rowRetired_spec c y).2.2.2 z hz (hwaits.symm.trans hw) (hrows y hy)

/-- A complete frame ends, another goes on (R145). -/
theorem State.finishIfComplete_ctx (s : State) (c : Ctx) :
    ((s.ctx c).completes = none → s.finishIfComplete c = s) ∧
      ((s.ctx c).completes ≠ none → ((s.finishIfComplete c).ctx c).AtRest ∧
        (s.finishIfComplete c).rpw.nextSeq = if s.rpw.slots = 0 then s.rpw.nextSeq else s.rpw.nextSeq + 1) := by
  unfold State.finishIfComplete
  split
  · next h => exact ⟨fun _ => rfl, fun hn => absurd h hn⟩
  · next f h => exact ⟨fun hn => (by rw [hn] at h; cases h), fun _ => ⟨(s.endFrame_closes c f .complete).2,
      s.endFrame_nextSeq c f .complete⟩⟩

/-- A frame is complete in FINISHING with every output row emitted and retired (R145). -/
theorem Context.completes_iff {x : Context} {f : Frame} (hf : x.frame = some f) :
    x.completes ≠ none ↔ x.state = .finishing ∧ f.e = x.height ∧ f.unretired = [] := by
  unfold Context.completes
  rw [hf]
  dsimp only
  split
  · next h => exact ⟨fun _ => h, fun _ => Option.some_ne_none _⟩
  · next h => exact ⟨fun hn => absurd rfl hn, fun hc => absurd hc h⟩

section Row

variable {s : State} {c : Ctx} {f : Frame} (y : Nat) (hf : (s.ctx c).frame = some f)
include hf

theorem State.rowRetired_frame : ((s.rowRetired c y).ctx c).frame = some (f.retire y) := by
  rw [(s.rowRetired_spec c y).2.1, Context.mapFrame, hf]; rfl

omit hf in
theorem State.rowRetired_state : ((s.rowRetired c y).ctx c).state = (s.ctx c).state := by
  rw [(s.rowRetired_spec c y).2.1]; rfl

theorem State.rowRetired_completes : ((s.rowRetired c y).ctx c).completes ≠ none ↔
    (s.ctx c).state = .finishing ∧ f.e = (s.ctx c).height ∧ ∀ r ∈ f.unretired, r = y := by
  rw [Context.completes_iff (State.rowRetired_frame y hf), (s.rowRetired_spec c y).2.1]
  simp [Context.mapFrame, Frame.retire]

/-- A frame that a retired row does not end has the row no longer among those not retired (R144). -/
theorem State.retireRow_unretired {g : Frame} (hg : ((s.retireRow c y).ctx c).frame = some g) :
    g.unretired = f.unretired.filter fun r => decide (r ≠ y) := by
  have hframe := State.rowRetired_frame y hf
  rw [State.retireRow_eq] at hg
  split at hg
  · obtain ⟨_, f', hf', _, _, hun⟩ := State.drain_frame hg
    obtain rfl : f.retire y = f' := Option.some.inj (hframe.symm.trans hf')
    exact hun
  · by_cases hc : ((s.rowRetired c y).ctx c).completes = none
    · rw [((s.rowRetired c y).finishIfComplete_ctx c).1 hc, hframe] at hg
      rw [← Option.some.inj hg]; rfl
    · rw [(((s.rowRetired c y).finishIfComplete_ctx c).2 hc).1.1] at hg
      cases hg

/-- The last row of a frame in FINISHING ends it, with its report (R145). -/
theorem State.retireRow_completes (hstate : (s.ctx c).state = .finishing) (he : f.e = (s.ctx c).height)
    (hall : ∀ r ∈ f.unretired, r = y) :
    ((s.retireRow c y).ctx c).AtRest ∧
      (s.retireRow c y).rpw.nextSeq = if s.rpw.slots = 0 then s.rpw.nextSeq else s.rpw.nextSeq + 1 := by
  have hc := (State.rowRetired_completes y hf).mpr ⟨hstate, he, hall⟩
  have hfinish := ((s.rowRetired c y).finishIfComplete_ctx c).2 hc
  rw [(s.rowRetired_spec c y).2.2.1] at hfinish
  rw [State.retireRow_eq, if_neg (by rw [State.rowRetired_state y, hstate]; decide)]
  exact hfinish

/-- Another row leaves the frame in its state (R144). -/
theorem State.retireRow_goesOn (hstate : (s.ctx c).state ≠ .aborting)
    (hnot : ¬((s.ctx c).state = .finishing ∧ f.e = (s.ctx c).height ∧ ∀ r ∈ f.unretired, r = y)) :
    ((s.retireRow c y).ctx c).state = (s.ctx c).state ∧ ((s.retireRow c y).ctx c).frame.isSome = true := by
  have hc : ((s.rowRetired c y).ctx c).completes = none := by
    by_contra h
    exact hnot ((State.rowRetired_completes y hf).mp h)
  rw [State.retireRow_eq, if_neg (by rw [State.rowRetired_state y]; exact hstate),
    ((s.rowRetired c y).finishIfComplete_ctx c).1 hc, State.rowRetired_frame y hf]
  exact ⟨State.rowRetired_state y, rfl⟩

end Row

/-! ### Responses (R161, R162, R177) -/

theorem isError_iff (resp : Resp) : isError resp = true ↔ resp ≠ .okay := by
  cases resp <;> simp [isError]

theorem State.countError_error {s : State} {resp : Resp} (h : resp ≠ .okay) :
    s.countError resp = (s.setWarb { s.warb with errors := s.warb.errors + 1 }).latch .memoryError :=
  if_pos ((isError_iff resp).mpr h)

theorem requesterOf_requesterFor (c : Ctx) : requesterOf (requesterFor c).tag = some (requesterFor c) := by cases c <;> rfl

theorem State.handResponse_row (s : State) (c : Ctx) (b : IssuedBurst) (resp : Resp) :
    s.handResponse b resp (requesterFor c) = s.rowResponse c b resp := by cases c <;> rfl

theorem State.countError_spec (s : State) (resp : Resp) :
    (s.countError resp).pb = s.pb ∧ (∀ d, (s.countError resp).ctx d = s.ctx d) ∧ (s.countError resp).rpw = s.rpw ∧
      (s.countError resp).warb.issued = s.warb.issued ∧
      (resp = .okay → (s.countError resp).warb.errors = s.warb.errors ∧ (s.countError resp).evu = s.evu) ∧
      (resp ≠ .okay → (s.countError resp).warb.errors = s.warb.errors + 1 ∧ (s.countError resp).has .memoryError) := by
  by_cases h : resp = .okay
  · subst h
    exact ⟨rfl, fun _ => rfl, rfl, rfl, fun _ => ⟨rfl, rfl⟩, fun hn => absurd rfl hn⟩
  · rw [State.countError_error h]
    exact ⟨rfl, fun _ => rfl, rfl, rfl, fun hn => absurd hn h, fun _ => ⟨rfl, State.has_latch _ _⟩⟩

theorem Arbiter.of_rest {a b : Arbiter} (h : { b with runs := a.runs } = a) : b.issued = a.issued ∧ b.errors = a.errors :=
  ⟨(congrArg Arbiter.issued h :), (congrArg Arbiter.errors h :)⟩

theorem State.settle_issued (s : State) : s.settle.warb.issued = s.warb.issued ∧ s.settle.warb.errors = s.warb.errors := by
  obtain ⟨_, _, _, _, hissued, herrors⟩ := Arbiter.eq_of_ungranted s.warb.settle_ungranted
  exact ⟨hissued, herrors⟩

theorem State.rowResponse_leaves (s : State) (c : Ctx) (b : IssuedBurst) (resp : Resp) :
    Leaves c (s.countError resp) (s.rowResponse c b resp) := by
  unfold State.rowResponse; split
  · exact leaves_retireRow _ _ _
  · exact leaves_refl _ _

theorem State.rowResponse_inners (s : State) (c : Ctx) (b : IssuedBurst) (resp : Resp) :
    Inners (s.countError resp) (s.rowResponse c b resp) := by
  unfold State.rowResponse; split
  · exact inners_retireRow _ _ (inners_refl _)
  · exact inners_refl _

theorem State.rowResponse_last (s : State) {c : Ctx} {b : IssuedBurst} (resp : Resp) (h : b.last = true) :
    s.rowResponse c b resp = (s.countError resp).retireRow c b.row := if_pos h

theorem State.rowResponse_notLast (s : State) {c : Ctx} {b : IssuedBurst} (resp : Resp) (h : b.last = false) :
    s.rowResponse c b resp = s.countError resp := if_neg (by rw [h]; exact Bool.false_ne_true)

/-- The completed record leaves behind those before it (R177). -/
theorem completeFirst_removes {x : QueuedReport} {addr : Nat} {post : List QueuedReport} (hx : x.stage = .written addr) :
    ∀ pre : List QueuedReport, (∀ y ∈ pre, ∀ k, y.stage ≠ .written k) → completeFirst (pre ++ x :: post) = pre ++ post
  | [], _ => by rw [List.nil_append, completeFirst, hx]; rfl
  | y :: pre, h => by
    have hrest := completeFirst_removes (post := post) hx pre fun z hz => h z (by simp [hz])
    rw [List.cons_append, completeFirst]
    split
    · next a ha => exact absurd ha (h y (by simp) a)
    · rw [hrest]; rfl

theorem State.presentReport_of_noWaiting {s : State} (h : ∀ y ∈ s.rpw.queue, y.stage ≠ .waiting) :
    s.presentReport = s := by
  have hnone : (s.rpw.queue.any fun y => y.isWaiting) = false := by
    rw [List.any_eq_false]
    intro y hy
    rw [QueuedReport.isWaiting_eq, decide_eq_true_eq]
    exact h y hy
  exact if_neg (by rw [State.presentDue, hnone]; simp)

theorem State.presentReport_rest (s : State) : { s.presentReport.warb with runs := s.warb.runs } = s.warb := by
  unfold State.presentReport; split <;> rfl

/-- The state once the oldest issued burst of a requester has its response (R161). -/
def State.answered (s : State) (r : Requester) (bs : List IssuedBurst) : State :=
  s.setWarb { s.warb with issued := s.warb.issued.set r bs }

theorem changes_answered {s t : State} {blocks : List Block} (r : Requester) (bs : List IssuedBurst)
    (hw : Block.warb ∈ blocks) (h : s.changesOnly t blocks) : s.changesOnly (t.answered r bs) blocks :=
  changes_setWarb_keeps _ hw rfl h

/-- A response to an EMIT burst, where no context holds back the head of the write channel (R161). -/
theorem exec_emitResponse {s : State} {c : Ctx} {b : IssuedBurst} {bs : List IssuedBurst} (dt : Nat) (resp : Resp)
    (hissued : s.warb.issued.get (requesterFor c) = b :: bs) (hheld : s.pb.heldBy = none) :
    exec (.memoryWriteResponse dt (requesterFor c).tag resp) s =
      .next (((s.begin dt).answered (requesterFor c) bs).rowResponse c b resp).settle := by
  have hbegun : (s.begin dt).warb.issued.get (requesterFor c) = b :: bs := by rw [State.begin_warb]; exact hissued
  rw [exec_memoryWriteResponse, State.memoryResponse_of_issued resp (requesterOf_requesterFor c) hbegun,
    State.handResponse_row, ← State.answered, State.reofferAfterIdle_of_free]
  rw [(State.rowResponse_leaves _ c b resp).pb, (State.countError_spec _ resp).1]
  exact (congrArg PortBridge.heldBy (s.begin_pb dt)).trans hheld

/-- The EMIT part of O34: the burst leaves its list, an error is counted, and at the last burst the row retires. -/
theorem emitErrorIsCounted (dt : Nat) (c : Ctx) (resp : Resp) (b : IssuedBurst) (bs : List IssuedBurst) (s : State)
    (hissued : s.warb.issued.get (requesterFor c) = b :: bs) (hheld : s.pb.heldBy = none) :
    ∃ t, exec (.memoryWriteResponse dt (requesterFor c).tag resp) s = .next t ∧
      t.warb.issued = s.warb.issued.set (requesterFor c) bs ∧
      (resp = .okay → t.warb.errors = s.warb.errors) ∧
      (resp ≠ .okay → t.warb.errors = s.warb.errors + 1 ∧ t.evu.set.getLsbD 15 = true) ∧
      (b.last = false → (resp = .okay → t.evu = s.evu) ∧
        (s.begin dt).changesOnly t [.warb, .evu, .stall0, .stall1, .grant]) ∧
      (b.last = true →
        (∀ h ∈ t.pb.holds, h.waits = some c → b.row ∉ h.rows) ∧
        (∀ f, (s.ctx c).frame = some f →
          (∀ g, (t.ctx c).frame = some g → g.unretired = f.unretired.filter (fun y => decide (y ≠ b.row))) ∧
          ((s.ctx c).state = .finishing → f.e = (s.ctx c).height → (∀ y ∈ f.unretired, y = b.row) →
            ((t.ctx c).state = .idle ∨ (t.ctx c).state = .off) ∧ (t.ctx c).frame = none ∧ (t.ctx c).geo = none ∧
            t.rpw.nextSeq = (if s.rpw.slots = 0 then s.rpw.nextSeq else s.rpw.nextSeq + 1)) ∧
          ((s.ctx c).state ≠ .aborting →
            ((s.ctx c).state ≠ .finishing ∨ f.e ≠ (s.ctx c).height ∨ ∃ y ∈ f.unretired, y ≠ b.row) →
            (t.ctx c).state = (s.ctx c).state ∧ (t.ctx c).frame.isSome = true)) ∧
        (s.begin dt).changesOnly t
          [.outputs, .pb, .mept, .psto, .bpln, .lmem, .ctx0, .ctx1, .warb, .evu, .rpw, .stall0, .stall1, .grant]) := by
  set u := (s.begin dt).answered (requesterFor c) bs with hu
  obtain ⟨hpb, hctx, hrpw, hiss, hokay, herror⟩ := u.countError_spec resp
  have huctx : (u.countError resp).ctx c = s.ctx c := (hctx c).trans (s.ctx_begin dt c)
  have hurpw : (u.countError resp).rpw = s.rpw := hrpw.trans (s.begin_rpw dt)
  have hlist : u.warb.issued = s.warb.issued.set (requesterFor c) bs := by
    rw [hu, State.answered, State.setWarb_warb, State.begin_warb]
  have hcount : u.warb.errors = s.warb.errors := by
    rw [hu, State.answered, State.setWarb_warb, State.begin_warb]
  obtain ⟨hsettled, hsettledErrors⟩ := (u.rowResponse c b resp).settle_issued
  obtain ⟨hrest, hrestErrors⟩ := Arbiter.of_rest (u.rowResponse_leaves c b resp).warb
  refine ⟨_, exec_emitResponse dt resp hissued hheld, ?_, fun h => ?_, fun h => ⟨?_, ?_⟩, fun hlast => ⟨fun h => ?_, ?_⟩,
    fun hlast => ⟨?_, fun f hf => ⟨fun g hg => ?_, fun hstate he hall => ?_, fun hstate hnot => ?_⟩, ?_⟩⟩
  · rw [hsettled, hrest, hiss, hlist]
  · rw [hsettledErrors, hrestErrors, (hokay h).1, hcount]
  · rw [hsettledErrors, hrestErrors, (herror h).1, hcount]
  · exact State.has_settle ((u.rowResponse_inners c b resp).keeps_event .memoryError (herror h).2)
  · rw [State.settle_evu, State.rowResponse_notLast _ _ hlast, (hokay h).2]
    exact s.begin_evu dt
  · rw [State.rowResponse_notLast _ _ hlast]
    refine changes_settle (by decide) (by decide) (by decide) ?_
    have hanswered : (s.begin dt).changesOnly u [.warb, .evu, .stall0, .stall1, .grant] :=
      changes_answered _ _ (by decide) (State.changesOnly_refl _ _)
    unfold State.countError; split
    · exact changes_latch _ (by decide) (changes_setWarb_keeps _ (by decide) rfl hanswered)
    · exact hanswered
  · rw [State.settle_pb, State.rowResponse_last _ _ hlast]
    exact (u.countError resp).retireRow_holds c b.row
  · obtain ⟨f', hf', rfl⟩ := State.settle_frame hg
    rw [State.rowResponse_last _ _ hlast] at hf'
    exact State.retireRow_unretired (s := u.countError resp) (g := f') b.row (by rw [huctx]; exact hf) hf'
  · obtain ⟨⟨hframe, hgeo, hidle⟩, hseq⟩ := State.retireRow_completes (s := u.countError resp) (c := c) b.row
      (by rw [huctx]; exact hf) (by rw [huctx]; exact hstate) (by rw [huctx]; exact he) hall
    rw [State.settle_ctx, State.settle_rpw, State.rowResponse_last _ _ hlast, hseq, hurpw, Context.mapFrame, hframe, hgeo]
    exact ⟨hidle, rfl, rfl, rfl⟩
  · obtain ⟨hst, hsome⟩ := State.retireRow_goesOn (s := u.countError resp) (c := c) b.row (by rw [huctx]; exact hf)
      (by rw [huctx]; exact hstate) (by
        rw [huctx]
        rintro ⟨hfin, he, hall⟩
        rcases hnot with h | h | ⟨y, hy, hne⟩
        · exact h hfin
        · exact h he
        · exact hne (hall y hy))
    rw [huctx] at hst
    rw [State.settle_ctx, State.rowResponse_last _ _ hlast, Context.mapFrame, hst, Option.isSome_map]
    exact ⟨rfl, hsome⟩
  · refine changes_settle (by decide) (by decide) (by decide) (State.changesOnly_mono (bs := frameBlocks) ?_ (by decide))
    have hhand := changes_handResponse b resp (requesterFor c)
      (changes_answered (requesterFor c) bs (blocks := frameBlocks) (by decide) ((s.begin dt).changesOnly_refl _))
    rwa [State.handResponse_row] at hhand

/-- A response to a REPORT burst, where no context holds back the head of the write channel (R161). -/
theorem exec_reportResponse {s : State} {b : IssuedBurst} {bs : List IssuedBurst} (dt : Nat) (resp : Resp)
    (hissued : s.warb.issued.report = b :: bs) (hheld : s.pb.heldBy = none) :
    exec (.memoryWriteResponse dt 3 resp) s =
      .next (((s.begin dt).answered .report bs).reportResponse b resp).settle := by
  have hbegun : (s.begin dt).warb.issued.get .report = b :: bs := by rw [State.begin_warb]; exact hissued
  have hpb : (((s.begin dt).answered .report bs).reportResponse b resp).pb = s.pb := by
    have hblocks : ((s.begin dt).answered .report bs).changesOnly
        (((s.begin dt).answered .report bs).reportResponse b resp) [.evu, .rpw, .warb] := by
      unfold State.reportResponse; dsimp only; split
      · exact changes_presentReport (by decide) (by decide) (changes_setRpw _ (by decide)
          (changes_latchIf _ _ (by decide) (State.changesOnly_refl _ _)))
      · exact changes_latchIf _ _ (by decide) (State.changesOnly_refl _ _)
    exact (hblocks .pb (by decide)).trans (s.begin_pb dt)
  rw [exec_memoryWriteResponse, State.memoryResponse_of_issued (r := .report) resp rfl hbegun]
  have hfree : (((s.begin dt).answered .report bs).reportResponse b resp).pb.heldBy = none := by rw [hpb]; exact hheld
  exact congrArg (fun v : State => Host.Outcome.next v.settle) (State.reofferAfterIdle_of_free hfree)

/-- The REPORT part of O34: an error latches and counts nothing, and at the last burst the record leaves. -/
theorem reportErrorIsLatched (dt : Nat) (resp : Resp) (b : IssuedBurst) (bs : List IssuedBurst) (s : State)
    (hissued : s.warb.issued.report = b :: bs) (hheld : s.pb.heldBy = none) :
    ∃ t, exec (.memoryWriteResponse dt 3 resp) s = .next t ∧ t.warb.issued = { s.warb.issued with report := bs } ∧
      t.warb.errors = s.warb.errors ∧ (resp = .okay → t.evu = s.evu) ∧
      (resp ≠ .okay → t.evu.set = s.evu.set ||| 32768#19) ∧
      (b.last = false → t.rpw = s.rpw) ∧
      (b.last = true → ∀ (pre post : List QueuedReport) (x : QueuedReport) (addr : Nat),
        s.rpw.queue = pre ++ x :: post → x.stage = .written addr → (∀ y ∈ pre, ∀ k, y.stage ≠ .written k) →
        t.rpw.queue.map (fun y => y.report) = (pre ++ post).map (fun y => y.report) ∧
          ((∀ y ∈ pre ++ post, y.stage ≠ .waiting) → t.rpw = { s.rpw with queue := pre ++ post })) ∧
      (s.begin dt).changesOnly t [.warb, .evu, .rpw, .stall0, .stall1, .grant] := by
  set u := ((s.begin dt).answered .report bs).latchIf (isError resp) .memoryError with hu
  set v := u.setRpw { s.rpw with queue := completeFirst s.rpw.queue } with hv
  have hurpw : u.rpw = s.rpw := s.begin_rpw dt
  have hstep : ((s.begin dt).answered .report bs).reportResponse b resp = if b.last then v.presentReport else u := by
    rw [State.reportResponse, ← hu, hurpw]
  have huissued : u.warb.issued = { s.warb.issued with report := bs } ∧ u.warb.errors = s.warb.errors := by
    rw [hu, State.latchIf_warb, State.answered, State.setWarb_warb, State.begin_warb]
    exact ⟨rfl, rfl⟩
  have hwarb : (if b.last then v.presentReport else u).warb.issued = u.warb.issued ∧
      (if b.last then v.presentReport else u).warb.errors = u.warb.errors := by
    split
    · exact Arbiter.of_rest v.presentReport_rest
    · exact ⟨rfl, rfl⟩
  have hevu : (if b.last then v.presentReport else u).evu = u.evu := by
    split
    · exact v.presentReport_evu
    · rfl
  obtain ⟨hsettled, hsettledErrors⟩ := (if b.last then v.presentReport else u).settle_issued
  refine ⟨_, by rw [exec_reportResponse dt resp hissued hheld, hstep], ?_, ?_, fun h => ?_, fun h => ?_, fun hlast => ?_,
    fun hlast pre post x addr hqueue hx hpre => ?_, ?_⟩
  · rw [hsettled, hwarb.1, huissued.1]
  · rw [hsettledErrors, hwarb.2, huissued.2]
  · rw [State.settle_evu, hevu, hu, h]
    exact s.begin_evu dt
  · rw [State.settle_evu, hevu, hu, (isError_iff resp).mpr h, State.latchIf_evu, if_pos rfl, EventUnit.latch_set]
    exact congrArg (fun e : EventUnit => e.set ||| Event.memoryError.bit) (s.begin_evu dt)
  · rw [State.settle_rpw, hlast, if_neg Bool.false_ne_true, hurpw]
  · rw [State.settle_rpw, hlast, if_pos rfl]
    have hvqueue : v.rpw = { s.rpw with queue := pre ++ post } := by
      rw [hv, State.setRpw_rpw, hqueue, completeFirst_removes hx pre hpre]
    refine ⟨?_, fun hwaiting => ?_⟩
    · rw [v.presentReport_rpw.1, hvqueue]
    · rw [State.presentReport_of_noWaiting (by rw [hvqueue]; exact hwaiting), hvqueue]
  · refine changes_settle (by decide) (by decide) (by decide) ?_
    have hblocks : (s.begin dt).changesOnly u [.warb, .evu, .rpw, .stall0, .stall1, .grant] :=
      changes_latchIf _ _ (by decide) (changes_answered _ _ (by decide) (State.changesOnly_refl _ _))
    split
    · exact changes_presentReport (by decide) (by decide) (changes_setRpw _ (by decide) hblocks)
    · exact hblocks

/-- Settles O34: the responses to EMIT bursts and those to REPORT bursts. -/
theorem emitErrorIsCountedAndLatched : Obligations.EmitErrorIsCountedAndLatched :=
  ⟨emitErrorIsCounted, reportErrorIsLatched⟩

end Sys2Proof.Machine
end

section
/-! PROOFS. BURST_ISSUED: the run and its end (R142, R143, R147, R155 to R158). -/

namespace Sys2Proof.Machine

/-! ### What the end of a run presents -/

/-- Arbiter `a` becomes `b` as fresh runs are presented (R154). -/
def Arbiter.Presents (a b : Arbiter) : Prop :=
  { b with runs := a.runs } = a ∧
    ∀ q, b.runs.get q = a.runs.get q ∨ ∃ run, b.runs.get q = some run ∧ run.started = false

theorem Arbiter.presents_refl (a : Arbiter) : a.Presents a := ⟨rfl, fun _ => .inl rfl⟩

theorem Arbiter.presents_request (a : Arbiter) (r : Requester) (run : Run) (h : run.started = false) :
    a.Presents (a.request r run) := by
  refine ⟨rfl, fun q => ?_⟩
  by_cases hq : q = r
  · subst hq
    exact .inr ⟨run, Four.get_set_self _ _ _, h⟩
  · exact .inl (Four.get_set_other _ _ hq)

theorem Arbiter.PlansTo.presents {a b : Arbiter} (h : a.PlansTo b) : a.Presents b :=
  ⟨h.rest, fun q => (h.runs q).imp_right fun ⟨_, _, hrun⟩ => hrun⟩

theorem State.requestRow_presents (s : State) (c : Ctx) (y n : Nat) (raw : Bool) :
    s.warb.Presents (s.requestRow c y n raw).warb := by
  unfold State.requestRow; split
  · exact Arbiter.presents_refl _
  · exact Arbiter.presents_request _ _ _ rfl

theorem State.presentPass_presents (s : State) : s.warb.Presents s.presentPass.warb := by
  unfold State.presentPass; split
  · exact Arbiter.presents_request _ _ _ rfl
  · exact Arbiter.presents_refl _

theorem State.presentReport_presents (s : State) : s.warb.Presents s.presentReport.warb := by
  unfold State.presentReport; split
  · exact Arbiter.presents_request _ _ _ rfl
  · exact Arbiter.presents_refl _

/-! ### The drain of a frame with rows not yet retired (R147) -/

/-- With a row not yet retired the drain does not end the frame. -/
theorem State.drain_of_unretired {s : State} {c : Ctx} (hun : ∀ f, (s.ctx c).frame = some f → f.unretired ≠ []) :
    s.drain c = s ∨ ∃ f, (s.ctx c).frame = some f ∧
      (s.drain c = s.setCtx c { s.ctx c with frame := some f.beginDrain } ∨
        ∃ y n, s.drain c = (s.setCtx c { s.ctx c with frame := some f.beginDrain }).requestRow c y n true) := by
  unfold State.drain; split
  · exact .inl rfl
  · next f hf =>
    dsimp only
    split
    · refine .inr ⟨f, hf, ?_⟩
      split
      · exact .inr ⟨_, _, rfl⟩
      · refine .inl (if_neg ?_)
        rw [f.beginDrain_keeps.2.2, List.isEmpty_iff]
        exact hun f hf
    · exact .inl rfl

section Drain

variable {s t : State} {c : Ctx}

theorem changes_drain_only {bs : List Block} (hb : blockOf c ∈ bs) (hs : stallOf c ∈ bs) (hw : Block.warb ∈ bs)
    (hun : ∀ f, (t.ctx c).frame = some f → f.unretired ≠ []) (h : s.changesOnly t bs) :
    s.changesOnly (t.drain c) bs := by
  rcases State.drain_of_unretired hun with heq | ⟨f, _, heq | ⟨y, n, heq⟩⟩ <;> rw [heq]
  · exact h
  · exact changes_setCtx _ _ hb hs h
  · exact changes_requestRow _ _ _ _ hw (changes_setCtx _ _ hb hs h)

theorem State.drain_presents (hun : ∀ f, (s.ctx c).frame = some f → f.unretired ≠ []) :
    s.warb.Presents (s.drain c).warb := by
  rcases State.drain_of_unretired hun with heq | ⟨f, _, heq | ⟨y, n, heq⟩⟩ <;> rw [heq]
  · exact Arbiter.presents_refl _
  · exact Arbiter.presents_refl _
  · exact State.requestRow_presents (s.setCtx c _) c y n true

end Drain

/-! ### A frame after a row (R142, R143, R147) -/

/-- What a frame keeps once its row has been emitted or drained: e, the rows not yet retired and the count of corrected
rows; held rows leave at the lower end only (R143). -/
def Frame.keptBy (f g : Frame) : Prop :=
  g.e = f.e ∧ g.unretired = f.unretired ∧ g.held <:+ f.held ∧ g.account.rowsCorrected = f.account.rowsCorrected

theorem Frame.keptBy_refl (f : Frame) : f.keptBy f := ⟨rfl, rfl, List.suffix_rfl, rfl⟩

theorem Frame.keptBy_trans {f g h : Frame} (hfg : f.keptBy g) (hgh : g.keptBy h) : f.keptBy h := by
  obtain ⟨he, hun, hheld, hrows⟩ := hfg
  obtain ⟨he', hun', hheld', hrows'⟩ := hgh
  exact ⟨he'.trans he, hun'.trans hun, hheld'.trans hheld, hrows'.trans hrows⟩

theorem Frame.keptBy_releaseBelow (f : Frame) (bound : Nat) : f.keptBy (f.releaseBelow bound) :=
  ⟨rfl, rfl, List.drop_suffix _ _, rfl⟩

theorem Frame.keptBy_beginDrain (f : Frame) : f.keptBy f.beginDrain := by
  unfold Frame.beginDrain; split
  · exact f.keptBy_refl
  · exact ⟨rfl, rfl, List.drop_suffix _ _, rfl⟩

theorem Frame.keptBy_restall (f : Frame) (runs : Bool) (now : Time) : f.keptBy (f.restall runs now) :=
  ⟨rfl, rfl, List.suffix_rfl, rfl⟩

theorem Frame.keptBy_of_plansTo {f g : Frame} (h : f.plansTo g) : f.keptBy g := by
  obtain ⟨hcore, k, _, hheld, _⟩ := h
  refine ⟨Frame.e_of_core hcore, (congrArg Frame.unretired hcore :), ?_,
    (congrArg (fun x => x.account.rowsCorrected) hcore :)⟩
  rw [hheld]
  exact List.drop_suffix _ _

theorem Frame.releaseBelow_held (f : Frame) (bound : Nat) : (f.releaseBelow bound).held = f.held.drop (bound - f.low) := by
  show f.held.drop (min (bound - f.low) f.held.length) = _
  rcases le_total (bound - f.low) f.held.length with h | h
  · rw [min_eq_left h]
  · rw [min_eq_right h, List.drop_length, List.drop_eq_nil_of_le h]

theorem State.drain_keptBy {s : State} {c : Ctx} {f : Frame} (hf : (s.ctx c).frame = some f) (hun : f.unretired ≠ []) :
    ∃ g, ((s.drain c).ctx c).frame = some g ∧ f.keptBy g := by
  have hall : ∀ f', (s.ctx c).frame = some f' → f'.unretired ≠ [] := fun f' hf' => by
    rw [← Option.some.inj (hf.symm.trans hf')]; exact hun
  rcases State.drain_of_unretired hall with heq | ⟨f', hf', heq | ⟨y, n, heq⟩⟩ <;> rw [heq]
  · exact ⟨f, hf, f.keptBy_refl⟩
  · obtain rfl : f = f' := Option.some.inj (hf.symm.trans hf')
    exact ⟨_, by rw [State.ctx_setCtx_self], f.keptBy_beginDrain⟩
  · obtain rfl : f = f' := Option.some.inj (hf.symm.trans hf')
    exact ⟨_, by rw [State.ctx_requestRow, State.ctx_setCtx_self], f.keptBy_beginDrain⟩

theorem State.afterRow_eq {s : State} {c : Ctx} {f : Frame} (hf : (s.ctx c).frame = some f) :
    s.afterRow c =
      if (s.ctx c).state = .aborting then s.drain c
      else if f.e < (s.ctx c).height then s.requestNext c
      else s.mapFrame c fun f => f.releaseBelow (s.ctx c).height := by
  rw [State.afterRow, hf]

/-- What follows an emitted row keeps of the frame, and releases after the last output row (R143). -/
theorem State.afterRow_keptBy {s : State} {c : Ctx} {f : Frame} (hf : (s.ctx c).frame = some f) (hun : f.unretired ≠ []) :
    ∃ g, ((s.afterRow c).ctx c).frame = some g ∧ f.keptBy g ∧
      ((s.ctx c).state ≠ .aborting → (s.ctx c).height ≤ f.e → g.held = f.held.drop ((s.ctx c).height - f.low)) := by
  rw [State.afterRow_eq hf]
  split
  · next haborting =>
    obtain ⟨g, hg, hkept⟩ := State.drain_keptBy hf hun
    exact ⟨g, hg, hkept, fun h => absurd haborting h⟩
  · split
    · next hlt =>
      obtain ⟨g, hg, hplans⟩ := ((plans_requestNext (P := fun d => d = c) c rfl (plans_refl _ s)).ctx c).frame f hf
      exact ⟨g, hg, Frame.keptBy_of_plansTo hplans, fun _ h => absurd hlt (Nat.not_lt.mpr h)⟩
    · refine ⟨f.releaseBelow (s.ctx c).height, ?_, f.keptBy_releaseBelow _, fun _ _ => f.releaseBelow_held _⟩
      rw [State.mapFrame, State.ctx_setCtx_self, Context.mapFrame, hf]; rfl

theorem State.mapFrame_frame {s : State} {c : Ctx} {f : Frame} (g : Frame → Frame) (hf : (s.ctx c).frame = some f) :
    ((s.mapFrame c g).ctx c).frame = some (g f) := by
  rw [State.mapFrame, State.ctx_setCtx_self, Context.mapFrame, hf]; rfl

/-- Frames that have just had row `y` appended to the rows not yet retired have one. -/
theorem State.mapFrame_unretired {s : State} {c : Ctx} {g : Frame → Frame} {y : Nat}
    (hg : ∀ f : Frame, (g f).unretired = f.unretired ++ [y]) :
    ∀ f, ((s.mapFrame c g).ctx c).frame = some f → f.unretired ≠ [] := by
  intro f hf
  rw [State.mapFrame, State.ctx_setCtx_self] at hf
  obtain ⟨x, _, rfl⟩ := Option.map_eq_some_iff.mp hf
  rw [hg]
  simp

/-- The blocks that the end of a run changes: no port, no split of the line memory (R157). -/
def runBlocks : List Block := [.pb, .rpw, .mept, .psto, .bpln, .ctx0, .ctx1, .stall0, .stall1, .warb, .evu]

theorem blockOf_mem_run (c : Ctx) : blockOf c ∈ runBlocks := by cases c <;> decide

theorem stallOf_mem_run (c : Ctx) : stallOf c ∈ runBlocks := by cases c <;> decide

/-- The end of a run changes the blocks named, and presents fresh runs (R157). -/
theorem State.endRun_spec (s : State) (body : RunBody) :
    s.changesOnly (s.endRun body) runBlocks ∧ s.warb.Presents (s.endRun body).warb := by
  have hmap : ∀ (c : Ctx) (g : Frame → Frame), s.changesOnly (s.mapFrame c g) runBlocks := fun c g =>
    changes_mapFrame c g (blockOf_mem_run c) (stallOf_mem_run c) (State.changesOnly_refl _ _)
  unfold State.endRun
  split
  · exact ⟨changes_presentPass (by decide) (changes_setPb _ (by decide) (State.changesOnly_refl _ _)),
      State.presentPass_presents (s.setPb _)⟩
  · next c y =>
    have hun : ∀ f, ((s.mapFrame c fun f => f.emitted y).ctx c).frame = some f → f.unretired ≠ [] :=
      State.mapFrame_unretired (y := y) fun _ => rfl
    unfold State.rowEmitted State.afterRow
    split
    · exact ⟨hmap _ _, Arbiter.presents_refl _⟩
    · split
      · exact ⟨changes_drain_only (blockOf_mem_run c) (stallOf_mem_run c) (by decide) hun (hmap _ _),
          State.drain_presents hun⟩
      · split
        · exact ⟨State.changesOnly_trans (hmap _ _) (State.changesOnly_mono
            (changes_requestNext c (State.changesOnly_refl _ _)) (by decide)),
            (plans_requestNext (P := fun d => d = c) c rfl (plans_refl _ _)).warb.presents⟩
        · exact ⟨changes_mapFrame _ _ (blockOf_mem_run c) (stallOf_mem_run c) (hmap _ _), Arbiter.presents_refl _⟩
  · next c y =>
    have hun : ∀ f, ((s.mapFrame c fun f => f.drained y).ctx c).frame = some f → f.unretired ≠ [] :=
      State.mapFrame_unretired (y := y) fun _ => rfl
    exact ⟨changes_drain_only (blockOf_mem_run c) (stallOf_mem_run c) (by decide) hun (hmap _ _),
      State.drain_presents hun⟩
  · exact ⟨changes_presentReport (by decide) (by decide) (changes_setRpw _ (by decide) (State.changesOnly_refl _ _)),
      State.presentReport_presents (s.setRpw _)⟩

/-- An emitted row: e advances, the row joins those not yet retired, and counts unless its record is NO_PROFILE (R142,
R143, R151). -/
theorem State.endRun_emitted {s : State} {c : Ctx} {f : Frame} (y : Nat) (hf : (s.ctx c).frame = some f) :
    ∃ g, ((s.endRun (.row c y false)).ctx c).frame = some g ∧ (f.emitted y).keptBy g ∧
      ((s.ctx c).state ≠ .aborting → (s.ctx c).height ≤ f.e + 1 → g.held = f.held.drop ((s.ctx c).height - f.low)) := by
  have hframe := State.mapFrame_frame (fun f => f.emitted y) hf
  obtain ⟨g, hg, hkept, hlast⟩ := State.afterRow_keptBy hframe (by simp [Frame.emitted])
  have hctx : (s.mapFrame c fun f => f.emitted y).ctx c = (s.ctx c).mapFrame fun f => f.emitted y :=
    State.ctx_setCtx_self _ _ _
  rw [hctx] at hlast
  exact ⟨g, hg, hkept, hlast⟩

/-- A drained row joins those not yet retired (R147). -/
theorem State.endRun_drained {s : State} {c : Ctx} {f : Frame} (y : Nat) (hf : (s.ctx c).frame = some f) :
    ∃ g, ((s.endRun (.row c y true)).ctx c).frame = some g ∧ (f.drained y).keptBy g :=
  State.drain_keptBy (State.mapFrame_frame (fun f => f.drained y) hf) (by simp [Frame.drained])

theorem State.settle_keptBy {s : State} {c : Ctx} {f : Frame} (hf : (s.ctx c).frame = some f) :
    ∃ g, (s.settle.ctx c).frame = some g ∧ f.keptBy g := by
  refine ⟨f.restall (s.stallRuns c) s.time, ?_, f.keptBy_restall _ _⟩
  rw [State.settle_ctx, Context.mapFrame, hf]; rfl

/-- A pass write is marked issued (R8). -/
theorem State.endRun_pass (s : State) (w : UpWrite) :
    (s.endRun (.passWrite w)).pb = { s.pb with responses := issuePass s.pb.responses } := by
  show (State.presentPass _).pb = _
  unfold State.presentPass; split <;> rfl

/-! ### The arbiter once a burst is issued (R155 to R158) -/

/-- A free channel after a run, settled: the timer stands, and a waiting requester of the highest priority is granted, if one
waits (R156, R158 (1)). -/
theorem Arbiter.settle_freed {a : Arbiter} (hfree : a.owner = none) :
    a.settle.runs = a.runs ∧ a.settle.timer = none ∧ a.settle.issued = a.issued ∧
      (a.begun = false → a.settle.begun = false) ∧
      (a.settle.owner = none → ∀ q, a.settle.waiting q = false) ∧
      ∀ o, a.settle.owner = some o → a.settle.waiting o = true ∧
        ∀ q, a.settle.waiting q = true → a.settle.prio.get q ≤ a.settle.prio.get o := by
  by_cases hw : ∃ q, a.waiting q = true
  · obtain ⟨w, hwait, hmax, hsettle⟩ := Arbiter.settle_of_waiter hfree hw
    rw [hsettle]
    refine ⟨rfl, rfl, rfl, fun _ => rfl, fun h => (by cases h), fun o ho => ?_⟩
    obtain rfl : w = o := Option.some.inj ho
    exact ⟨hwait, hmax⟩
  · have hnone : ∀ q, a.waiting q = false := fun q => by
      rw [← Bool.not_eq_true]; exact fun hq => hw ⟨q, hq⟩
    rw [Arbiter.settle_of_noWaiter hfree hnone]
    exact ⟨rfl, rfl, rfl, fun h => h, fun _ => hnone, fun o ho => by
      rw [show ({ a with timer := none } : Arbiter).owner = a.owner from rfl, hfree] at ho; cases ho⟩

/-- The arbiter once a burst before the last of its run is issued (R155, R158). -/
theorem Arbiter.issue_goesOn {a : Arbiter} {r : Requester} {run : Run} {rest : List BurstPlan} (hrest : rest ≠ []) :
    a.issue r run rest =
      { a with
        runs := a.runs.set r (some { run with bursts := rest, started := true })
        issued := a.issued.set r (a.issued.get r ++ [⟨run.body.rowNumber, false⟩])
        timer := a.timer.map (· + 1)
        begun := false } := by
  have hempty : rest.isEmpty = false := by simpa using hrest
  rw [Arbiter.issue, hempty]
  rfl

theorem Arbiter.issue_ends (a : Arbiter) (r : Requester) (run : Run) :
    a.issue r run [] =
      { a with
        runs := a.runs.set r none
        issued := a.issued.set r (a.issued.get r ++ [⟨run.body.rowNumber, true⟩])
        timer := none
        begun := false
        owner := none } := rfl

theorem exec_burstIssued (dt : Nat) (s : State) : exec (.burstIssued dt) s = execBurstIssued dt s := rfl

/-- The state in which a burst is on the memory side, before its run ends (R155). -/
def State.burstOut (s : State) (r : Requester) (run : Run) (b : BurstPlan) (rest : List BurstPlan) : State :=
  (s.emit (s.burstOutput r run.bursts.length b run.body)).setWarb (s.warb.issue r run rest)

theorem changes_burstOut {s t : State} {bs : List Block} (r : Requester) (run : Run) (b : BurstPlan)
    (rest : List BurstPlan) (ho : Block.outputs ∈ bs) (hw : Block.warb ∈ bs) (hg : Block.grant ∈ bs)
    (h : s.changesOnly t bs) : s.changesOnly (t.burstOut r run b rest) bs :=
  changes_setWarb _ hw hg (changes_emit _ ho h)

theorem State.issueBurst_eq (s : State) (r : Requester) (run : Run) (b : BurstPlan) (rest : List BurstPlan) :
    s.issueBurst r run b rest =
      if rest.isEmpty then (s.burstOut r run b rest).endRun run.body else s.burstOut r run b rest := rfl

/-- Settles O30: before the last burst the owner goes on; at the last the run ends, and the channel is granted anew (R142,
R143, R147, R155 to R158). -/
theorem issuedBurstJoinsItsRequestersList : Obligations.IssuedBurstJoinsItsRequestersList := by
  intro dt r run b rest s howner hrun hbursts hdue
  set u := (s.begin dt).burstOut r run b rest with hu
  have huwarb : u.warb = s.warb.issue r run rest := by rw [hu, State.burstOut, State.setWarb_warb, State.begin_warb]
  have huout : u.outputs = [(s.begin dt).burstOutput r run.bursts.length b run.body] := by
    rw [hu, State.burstOut, State.setWarb_outputs, State.emit_outputs, State.begin_outputs]; rfl
  have huctx : ∀ c, u.ctx c = s.ctx c := fun c => s.ctx_begin dt c
  have hexec : exec (.burstIssued dt) s =
      .next (if rest.isEmpty then u.endRun run.body else u).settle := by
    rw [exec_burstIssued, execBurstIssued]
    have hnext : (s.begin dt).warb.nextBurst = some (r, run, b, rest) := by
      rw [State.begin_warb]; exact Arbiter.nextBurst_eq howner hrun hbursts hdue
    rw [hnext]
    exact congrArg (fun v : State => Host.Outcome.next v.settle) (State.issueBurst_eq _ _ _ _ _)
  by_cases hrest : rest = []
  · subst hrest
    obtain ⟨hblocks, hrunsRest, hfresh⟩ := u.endRun_spec run.body
    rw [huwarb, Arbiter.issue_ends] at hrunsRest hfresh
    set v := u.endRun run.body with hv
    have hfree : v.warb.owner = none := (congrArg Arbiter.owner hrunsRest :)
    obtain ⟨hruns, htimer, hissued, hbegun, hidle, hgranted⟩ := Arbiter.settle_freed hfree
    refine ⟨v.settle, hexec, ?_, ?_, hbegun (congrArg Arbiter.begun hrunsRest :), fun h => absurd rfl h, fun _ =>
      ⟨fun run' hrun' => ?_, htimer, hidle, hgranted, fun c y f hbody hf => ?_, fun c y f hbody hf => ?_,
        fun w hbody => ?_, ?_⟩⟩
    · rw [State.settle_outputs, hblocks .outputs (by decide), huout]
    · rw [State.settle_warb, hissued, show v.warb.issued = _ from (congrArg Arbiter.issued hrunsRest :),
        Four.get_set_self]
      simp
    · rw [State.settle_warb, hruns] at hrun'
      rcases hfresh r with h | ⟨x, hx, hstarted⟩
      · rw [h, Four.get_set_self] at hrun'; cases hrun'
      · rw [hx] at hrun'
        rw [← Option.some.inj hrun']
        exact hstarted
    · have hframe : (u.ctx c).frame = some f := by rw [huctx]; exact hf
      obtain ⟨g, hg, hkept, hlast⟩ := State.endRun_emitted y hframe
      rw [← hbody, ← hv] at hg
      obtain ⟨x, hx, hkept'⟩ := State.settle_keptBy hg
      obtain ⟨he, hun, hheld, hrows⟩ := Frame.keptBy_trans hkept hkept'
      refine ⟨x, hx, he, hun, hheld, hrows, fun hstate hheight => ?_⟩
      rw [huctx] at hlast
      rw [← hlast hstate hheight]
      rw [State.settle_ctx, Context.mapFrame, hg] at hx
      rw [← Option.some.inj hx]
      rfl
    · have hframe : (u.ctx c).frame = some f := by rw [huctx]; exact hf
      obtain ⟨g, hg, hkept⟩ := State.endRun_drained y hframe
      rw [← hbody, ← hv] at hg
      obtain ⟨x, hx, hkept'⟩ := State.settle_keptBy hg
      obtain ⟨he, hun, hheld, _⟩ := Frame.keptBy_trans hkept hkept'
      exact ⟨x, hx, he, hun, hheld.trans (List.drop_suffix _ _)⟩
    · have hupb : u.pb = s.pb := s.begin_pb dt
      rw [State.settle_pb, hv, hbody, State.endRun_pass, hupb]
    · refine changes_settle (by decide) (by decide) (by decide) ?_
      exact State.changesOnly_trans (changes_burstOut _ _ _ _ (by decide) (by decide) (by decide)
        (State.changesOnly_refl _ _)) (State.changesOnly_mono hblocks (by decide))
  · have hempty : rest.isEmpty = false := by simpa using hrest
    rw [hempty, if_neg Bool.false_ne_true] at hexec
    rw [Arbiter.issue_goesOn hrest] at huwarb
    have huowner : u.warb.owner = some r := by rw [huwarb]; exact howner
    have hsettle : u.settle.warb = { u.warb with
        timer := if u.warb.preempt && u.warb.challenged then some (u.warb.timer.getD 0) else none } :=
      u.settle_warb.trans (Arbiter.settle_of_owner huowner)
    refine ⟨u.settle, hexec, by rw [State.settle_outputs, huout], ?_, ?_, fun _ => ⟨?_, ?_, fun n hn hon hq => ?_, ?_⟩,
      fun h => absurd h hrest⟩
    · rw [hsettle, huwarb]
      exact (Four.get_set_self _ _ _).trans (by simp [hrest])
    · rw [hsettle, huwarb]
    · rw [hsettle, huwarb]
      exact Four.get_set_self _ _ _
    · rw [hsettle]; exact huowner
    · obtain ⟨q, hwait, hprio⟩ := hq
      have hqr : q ≠ r := by rintro rfl; exact Nat.lt_irrefl _ hprio
      have hchallenged : u.warb.challenged = true := by
        rw [Arbiter.challenged_iff huowner]
        refine ⟨q, ?_, by rw [huwarb]; exact hprio⟩
        rw [Arbiter.waiting, huwarb]
        exact (congrArg Option.isSome (Four.get_set_other _ _ hqr)).trans hwait
      have hpre : u.warb.preempt = true := by rw [huwarb]; exact hon
      have htimer : u.warb.timer = some (n + 1) := by rw [huwarb]; exact congrArg (Option.map (· + 1)) hn
      rw [hsettle, hpre, hchallenged, htimer]; rfl
    · exact changes_settle (by decide) (by decide) (by decide) (changes_burstOut _ _ _ _ (by decide) (by decide)
        (by decide) (State.changesOnly_refl _ _))

end Sys2Proof.Machine
end

section
/-! PROOFS. UPSTREAM_READ: the region of a read, what it is given, and the gain view's answer (R2, R6, R14 to R18, R127). -/

namespace Sys2Proof.Machine

/-! ### The rows a read touches (R14) -/

/-- A byte of a row lies in the row's stride (R7). -/
theorem FrameArea.row_of_byte {f : FrameArea} {y k : Nat} (hstride : 8 * f.width ≤ f.stride) (hw : 0 < f.width)
    (hlo : f.base + y * f.stride ≤ k) (hhi : k < f.base + y * f.stride + 8 * f.width) : (k - f.base) / f.stride = y := by
  have hpos : 0 < f.stride := by omega
  refine (Nat.div_eq_iff hpos).mpr ⟨by omega, ?_⟩
  have : k - f.base < y * f.stride + f.stride := by omega
  omega

theorem FrameArea.overlap_pos (f : FrameArea) (first last y : Nat) : 0 < f.overlap first last y ↔
    max first (f.base + y * f.stride) < min last (f.base + y * f.stride + 8 * f.width) := by
  rw [FrameArea.overlap, FrameArea.at, FrameArea.at]
  omega

/-- The rows touched are those below the height with a byte among the read's (R14). -/
theorem FrameArea.mem_rowsTouched {f : FrameArea} {first last y : Nat} (hw : 0 < f.width) (hstride : 8 * f.width ≤ f.stride)
    (hbase : f.base ≤ first) :
    y ∈ f.rowsTouched first last ↔ y < f.height ∧ ∃ k, first ≤ k ∧ k < last ∧ f.base + y * f.stride ≤ k ∧
      k < f.base + y * f.stride + 8 * f.width := by
  have hbyte : (∃ k, first ≤ k ∧ k < last ∧ f.base + y * f.stride ≤ k ∧ k < f.base + y * f.stride + 8 * f.width) ↔
      0 < f.overlap first last y := by
    rw [FrameArea.overlap_pos]
    constructor
    · rintro ⟨k, h1, h2, h3, h4⟩; omega
    · intro h
      exact ⟨max first (f.base + y * f.stride), by omega⟩
  unfold FrameArea.rowsTouched
  split
  · next hnone =>
    refine ⟨fun h => absurd h List.not_mem_nil, fun ⟨_, k, h1, h2, _⟩ => ?_⟩
    omega
  · dsimp only
    rw [List.mem_filter, List.mem_range'_1, Bool.and_eq_true, decide_eq_true_eq, decide_eq_true_eq, ← hbyte]
    refine ⟨fun ⟨_, h⟩ => h, fun h => ⟨?_, h⟩⟩
    obtain ⟨_, k, h1, h2, h3, h4⟩ := h
    have hrow := FrameArea.row_of_byte hstride hw h3 h4
    have hlo := Nat.div_le_div_right (c := f.stride) (show first - f.base ≤ k - f.base by omega)
    have hhi := Nat.div_le_div_right (c := f.stride) (show k - f.base ≤ last - 1 - f.base by omega)
    omega

/-! ### The region of a read and what it is given (R6, R14, R19) -/

theorem inRegion_iff (a base size : Nat) : inRegion a base size = true ↔ base ≤ a ∧ a < base + size := by
  rw [inRegion, Bool.and_eq_true, decide_eq_true_eq, decide_eq_true_eq]

theorem State.inFrameWindow_iff (s : State) (c : Ctx) (a : Nat) :
    s.inFrameWindow c a = true ↔ ∃ x, (s.ctx c).extent = some x ∧ x.base ≤ a ∧ a < x.base + x.size := by
  unfold State.inFrameWindow
  split
  · next x hx => rw [inRegion_iff]; simp [hx]
  · next hx => simp [hx]

theorem State.inProfileWindow_iff (s : State) (a : Nat) :
    s.inProfileWindow a = true ↔ ∃ b, s.pb.profileBase = some b ∧ b ≤ a ∧ a < b + 4096 := by
  unfold State.inProfileWindow
  split
  · next x hx => rw [inRegion_iff]; simp [hx]
  · next hx => simp [hx]

/-- An address falls into frame window `c` where no earlier region holds it (R6). -/
theorem State.classify_frame_iff (s : State) (c : Ctx) (a : Nat) : s.classify a = .frame c ↔ s.firstInWindow c a := by
  have hring : inRegion a s.rpw.base (s.rpw.slots * 256) = true ↔
      s.rpw.base ≤ a ∧ a < s.rpw.base + 256 * s.rpw.slots := by rw [inRegion_iff, Nat.mul_comm]
  have hprofile : (∀ b, s.pb.profileBase = some b → ¬(b ≤ a ∧ a < b + 4096)) ↔ ¬s.inProfileWindow a = true := by
    rw [State.inProfileWindow_iff]
    simp
  have hzero : (∀ x, (s.ctx .ctx0).extent = some x → ¬(x.base ≤ a ∧ a < x.base + x.size)) ↔
      ¬s.inFrameWindow .ctx0 a = true := by
    rw [State.inFrameWindow_iff]
    simp
  rw [State.firstInWindow, ← hring, ← inRegion_iff a s.pb.controlBase 4096, hprofile, hzero, ← State.inFrameWindow_iff]
  unfold State.classify
  by_cases h1 : inRegion a s.rpw.base (s.rpw.slots * 256) = true
  · simp [h1]
  by_cases h2 : inRegion a s.pb.controlBase 4096 = true
  · simp [h1, h2]
  by_cases h3 : s.inProfileWindow a = true
  · simp [h1, h2, h3]
  cases c with
  | ctx0 => by_cases h4 : s.inFrameWindow .ctx0 a = true <;> by_cases h5 : s.inFrameWindow .ctx1 a = true <;>
      simp [h1, h2, h3, h4, h5]
  | ctx1 => by_cases h4 : s.inFrameWindow .ctx0 a = true <;> by_cases h5 : s.inFrameWindow .ctx1 a = true <;>
      simp [h1, h2, h3, h4, h5]

theorem Frame.retired_iff (f : Frame) (y : Nat) : f.retired y = true ↔ f.hasRetired y := by
  simp [Frame.retired, Frame.hasRetired]

theorem Context.mem_hazardRows (x : Context) (rows : List Nat) (y : Nat) :
    y ∈ x.hazardRows rows ↔ y ∈ rows ∧ ∃ g, x.frame = some g ∧ ¬g.hasRetired y := by
  unfold Context.hazardRows
  split
  · next h => simp [h]
  · next f h => simp [h, ← Frame.retired_iff]

/-- The disposition of a read in frame window `c` whose bytes touch rows (R14). -/
theorem State.disposition_touching {s : State} {r : UpRead} {c : Ctx} {f : FrameArea} (hready : s.stl.part = .ready)
    (hin : s.firstInWindow c r.first) (hon : (s.ctx c).state ≠ .off) (harea : (s.ctx c).area = some f)
    (hrows : f.rowsTouched r.first r.last ≠ []) :
    s.disposition r = s.touchDisposition c (f.rowsTouched r.first r.last) := by
  have hisReady : s.isReady = true := decide_eq_true hready
  unfold State.disposition
  rw [hisReady, (s.classify_frame_iff c r.first).mpr hin]
  simp only [Bool.not_true, Bool.false_eq_true, if_false, if_neg hon, harea]

/-- Every other read is forwarded, and waits on nothing (R14, R19). -/
theorem State.disposition_plain {s : State} {r : UpRead}
    (h : s.stl.part ≠ .ready ∨ ∀ c, s.firstInWindow c r.first → (s.ctx c).state = .off ∨ (s.ctx c).area = none ∨
      ∃ f, (s.ctx c).area = some f ∧ f.rowsTouched r.first r.last = []) : s.disposition r = Disposition.plain := by
  unfold State.disposition
  split
  · rfl
  · next hready =>
    replace hready : s.stl.part = .ready := by simpa [State.isReady] using hready
    split
    · next c hc =>
      rcases h.resolve_left (fun hn => hn hready) c ((s.classify_frame_iff c r.first).mp hc) with hoff | hnone | ⟨f, hf, hnil⟩
      · rw [if_pos hoff]
      · rw [hnone]; split <;> rfl
      · rw [hf]
        dsimp only
        rw [hnil]; split <;> rfl
    · rfl

/-- The disposition of R14 is the one the part gives. -/
theorem State.gives_disposition (s : State) (r : UpRead) : s.gives r (s.disposition r) := by
  refine ⟨fun c f hready hin hon harea hrows => ?_, State.disposition_plain⟩
  rw [State.disposition_touching hready hin hon harea hrows]
  refine ⟨fun hview => if_pos hview, fun hview => ?_⟩
  have hmem := (s.ctx c).mem_hazardRows (f.rowsTouched r.first r.last)
  rw [State.touchDisposition, if_neg (by rw [hview]; decide)]
  split
  · next hnil =>
    rw [hnil] at hmem
    exact ⟨rfl, rfl, hmem⟩
  · next hs hne =>
    exact ⟨rfl, (if_neg hne).symm, hmem⟩

/-! ### The answer of the gain view (R18, R127) -/

/-- Pixel `j` of a beat of four (section 4.4). -/
theorem beatOfPixels_pixel (p : Nat → Pixel) {j : Nat} (hj : j < 4) :
    (beatOfPixels p).extractLsb' (64 * j) 64 = p j := by
  have hcases : j = 0 ∨ j = 1 ∨ j = 2 ∨ j = 3 := by omega
  unfold beatOfPixels
  refine BitVec.eq_of_getLsbD_eq fun i hi => ?_
  simp only [BitVec.getLsbD_extractLsb', BitVec.getLsbD_append, hi, decide_true, Bool.true_and]
  rcases hcases with rfl | rfl | rfl | rfl
  · simp [hi]
  · rw [if_neg (by omega), if_pos (by omega), show 64 * 1 + i - 64 = i by omega]
  · rw [if_neg (by omega), if_neg (by omega), if_pos (by omega), show 64 * 2 + i - 64 - 64 = i by omega]
  · rw [if_neg (by omega), if_neg (by omega), if_neg (by omega), show 64 * 3 + i - 64 - 64 - 64 = i by omega]

theorem FrameArea.holds_iff (f : FrameArea) (a : Nat) : f.holds a = true ↔
    f.base ≤ a ∧ (a - f.base) / f.stride < f.height ∧ (a - f.base) % f.stride < 8 * f.width := by
  rw [FrameArea.holds, Bool.and_eq_true, Bool.and_eq_true, decide_eq_true_eq, decide_eq_true_eq, decide_eq_true_eq,
    and_assoc]

/-- Outside the frame area an answer carries 0 (R18). -/
theorem State.answerPixel_outside {s : State} {c : Ctx} {a : Nat}
    (h : ∀ f, (s.ctx c).area = some f →
      a < f.base ∨ f.height ≤ (a - f.base) / f.stride ∨ 8 * f.width ≤ (a - f.base) % f.stride) :
    s.answerPixel c a = 0 := by
  unfold State.answerPixel
  split
  · rfl
  · next f hf =>
    refine if_neg ?_
    rw [FrameArea.holds_iff]
    have := h f hf
    omega

/-- On the frame area it carries the gain (R18, R127). -/
theorem State.answerPixel_inside {s : State} {c : Ctx} {a : Nat} {f : FrameArea} (hf : (s.ctx c).area = some f)
    (hbase : f.base ≤ a) (hrow : (a - f.base) / f.stride < f.height) (hcol : (a - f.base) % f.stride < 8 * f.width) :
    ((s.ctx c).mode = .transparent ∨ s.mept.newestPlanned = none → s.answerPixel c a = 0x0000400040004000) ∧
      ∀ e x, (s.ctx c).mode ≠ .transparent → s.mept.newestPlanned = some (e, x) →
        s.answerPixel c a = gainPixel (deriveGeometry (s.ctx c) e.id x) x ((a - f.base) % f.stride / 8)
          ((a - f.base) / f.stride) := by
  have hpixel : s.answerPixel c a = match s.gainSource c with
      | none => unityGainPixel
      | some (g, r) => gainPixel g r ((a - f.base) % f.stride / 8) ((a - f.base) / f.stride) := by
    rw [State.answerPixel, hf]
    exact if_pos ((f.holds_iff a).mpr ⟨hbase, hrow, hcol⟩)
  rw [hpixel]
  refine ⟨fun h => ?_, fun e x hmode hnewest => ?_⟩
  · have hnone : s.gainSource c = none := by
      unfold State.gainSource
      split
      · rfl
      · next hmode => rw [h.resolve_left hmode]; rfl
    rw [hnone]
    exact (by decide : unityGainPixel = 0x0000400040004000)
  · rw [State.gainSource, if_neg hmode, hnewest]; rfl

/-- The beats composed for a read answer it (R18, R127). -/
theorem State.answeredBy_answerBeats (s : State) (c : Ctx) (r : UpRead) : s.answeredBy c r (s.answerBeats c r) := by
  refine ⟨by simp [State.answerBeats], fun i j a b hb hj ha => ?_⟩
  obtain ⟨n, hn, rfl⟩ : ∃ n, n = i ∧ (beatOfPixels fun j => s.answerPixel c (r.first / 32 * 32 + 32 * n + 8 * j)) = b := by
    rw [State.answerBeats, List.getElem?_map, Option.map_eq_some_iff] at hb
    obtain ⟨n, hn, hb⟩ := hb
    rw [List.getElem?_eq_some_iff] at hn
    obtain ⟨_, hn⟩ := hn
    exact ⟨n, by rw [← hn, List.getElem_range], hb⟩
  subst hn
  rw [beatOfPixels_pixel _ hj, ← ha]
  exact ⟨State.answerPixel_outside, fun f hf hbase hrow hcol => State.answerPixel_inside hf hbase hrow hcol⟩

/-! ### UPSTREAM_READ (R2, R14, R15) -/

theorem exec_upstreamRead (dt : Nat) (r : UpRead) (s : State) : exec (.upstreamRead dt r) s = execUpstreamRead dt r s := rfl

theorem State.begin_disposition (s : State) (dt : Nat) (r : UpRead) : (s.begin dt).disposition r = s.disposition r := by
  unfold State.begin State.advance; split <;> rfl

theorem State.begin_answerBeats (s : State) (dt : Nat) (c : Ctx) (r : UpRead) :
    (s.begin dt).answerBeats c r = s.answerBeats c r := by
  unfold State.begin State.advance; split <;> rfl

theorem answering_iff (rs : List ReadOut) (tag : Nat) :
    answering rs tag = true ↔ ∃ x ∈ rs, x.tag = tag ∧ ∃ l, x.body = .answering l := by
  rw [answering, List.any_eq_true]
  refine exists_congr fun x => and_congr_right fun _ => ?_
  rw [Bool.and_eq_true, decide_eq_true_eq]
  cases x.body <;> simp

/-- A read is held behind a row, a held read or an unfinished answer of its tag (R15). -/
theorem State.takeRead_held {s : State} {r : UpRead}
    (h : (s.disposition r).rows ≠ [] ∨ (∃ k ∈ s.pb.holds, k.read.tag = r.tag) ∨
      ∃ x ∈ s.pb.reads, x.tag = r.tag ∧ ∃ l, x.body = .answering l) :
    s.takeRead r = s.setPb { s.pb with
      holds := s.pb.holds ++ [⟨r, (s.disposition r).fate, (s.disposition r).on, (s.disposition r).rows⟩] } := by
  refine if_pos ?_
  rw [Bool.or_eq_true, Bool.or_eq_true, answering_iff, List.any_eq_true]
  rcases h with h | ⟨k, hk, htag⟩ | h
  · exact .inl (.inl (by simpa using h))
  · exact .inl (.inr ⟨k, hk, decide_eq_true htag⟩)
  · exact .inr h

/-- Else it leaves at once (R15). -/
theorem State.takeRead_sent {s : State} {r : UpRead} (hrows : (s.disposition r).rows = [])
    (hholds : ∀ k ∈ s.pb.holds, k.read.tag ≠ r.tag)
    (hreads : ∀ x ∈ s.pb.reads, x.tag = r.tag → ∀ l, x.body ≠ .answering l) :
    s.takeRead r = s.sendRead r (s.disposition r).fate := by
  refine if_neg ?_
  rw [Bool.or_eq_true, Bool.or_eq_true, answering_iff, List.any_eq_true, hrows]
  rintro ((h | ⟨k, hk, htag⟩) | ⟨x, hx, htag, l, hl⟩)
  · cases h
  · exact hholds k hk (of_decide_eq_true htag)
  · exact hreads x hx htag l hl

/-- Settles O15: the disposition is what R14 gives; the read is held, forwarded or answered by it; the rows touched are those
with a byte of the read (R2, R6, R14, R15, R18). -/
theorem takenReadIsHeldForwardedOrAnswered : Obligations.TakenReadIsHeldForwardedOrAnswered := by
  refine ⟨fun dt r s hpart hpending hroom => ?_, fun f first last y hw hstride hbase =>
    FrameArea.mem_rowsTouched hw hstride hbase⟩
  have htakes : (s.begin dt).takesReads = true := by
    rw [State.takesReads, State.begin_pb, State.begin_stl, hpending]
    simp [hroom, hpart]
  have hexec : exec (.upstreamRead dt r) s = .next ((s.begin dt).takeRead r) := by
    rw [exec_upstreamRead, execUpstreamRead, if_pos htakes]
  have hdisp := s.begin_disposition dt r
  refine ⟨_, s.disposition r, hexec, ?_, s.gives_disposition r, fun h => ?_, fun hrows hholds hreads => ?_⟩
  · unfold State.takeRead
    dsimp only
    split
    · exact changes_setPb _ (by decide) (State.changesOnly_refl _ _)
    · exact changes_sendRead _ _ (by decide) (by decide) (State.changesOnly_refl _ _)
  · rw [State.takeRead_held (by rw [hdisp, State.begin_pb]; exact h), hdisp, State.begin_pb]
    exact ⟨rfl, rfl⟩
  · rw [State.takeRead_sent (by rw [hdisp]; exact hrows) (by rw [State.begin_pb]; exact hholds)
      (by rw [State.begin_pb]; exact hreads), hdisp]
    refine ⟨fun hfate => ?_, fun c hfate => ?_⟩
    · rw [hfate, State.sendRead, State.begin_pb]
      exact ⟨rfl, rfl⟩
    · rw [hfate, State.sendRead, State.begin_pb, State.begin_answerBeats]
      exact ⟨rfl, _, s.answeredBy_answerBeats c r, rfl⟩

end Sys2Proof.Machine
end

section
/-! PROOFS. The header of the start-up image (Table 11.1, R185, R186): where its fields stand, and what a good and a bad one
leave. -/

namespace Sys2Proof.Machine

/-! ### The fields of the header -/

/-- A field within a word of 32 bytes is a field of the 32 bytes. -/
theorem extractLsb'_wordOf (d : BeatData) (i start len : Nat) (h : start + len ≤ 32) :
    (wordOf d i).extractLsb' start len = d.extractLsb' (32 * i + start) len := by
  ext k hk
  have hin : start + k < 32 := by omega
  simp [wordOf, hin, Nat.add_assoc]

theorem byteOf_wordOf (d : BeatData) (i k : Nat) (h : 8 * k + 8 ≤ 32) :
    byteOf (wordOf d i) k = (d.extractLsb' (32 * i + 8 * k) 8).toNat := by
  rw [byteOf, extractLsb'_wordOf d i _ _ h]

theorem headerCount_eq (d : BeatData) : headerCount d = (d.extractLsb' 32 8).toNat := byteOf_wordOf d 1 0 (by decide)

theorem headerRate_eq (d : BeatData) : headerRate d = (d.extractLsb' 40 8).toNat := byteOf_wordOf d 1 1 (by decide)

/-- Two adjacent fields are one. -/
theorem extractLsb'_toNat_add (d : BeatData) (start m n : Nat) :
    (d.extractLsb' start m).toNat + (d.extractLsb' (start + m) n).toNat * 2 ^ m =
      (d.extractLsb' start (m + n)).toNat := by
  simp only [BitVec.extractLsb'_toNat, Nat.shiftRight_eq_div_pow, Nat.pow_add, ← Nat.div_div_eq_div_mul]
  generalize d.toNat / 2 ^ start = x
  rw [Nat.mod_mul, Nat.mul_comm (2 ^ m)]

theorem headerBase_eq (d : BeatData) : headerBase d = (d.extractLsb' 64 40).toNat / 4096 * 4096 := by
  rw [headerBase, baseOf, byteOf_wordOf d 3 0 (by decide), wordOf]
  rw [← extractLsb'_toNat_add d 64 32 8]

theorem rateOf_headerRate (d : BeatData) :
    rateOf (headerRate d) =
      if d.extractLsb' 40 8 = 0 then .baud250k else if d.extractLsb' 40 8 = 1 then .baud500k
      else if d.extractLsb' 40 8 = 2 then .baud1M else .baud2M := by
  simp only [headerRate_eq, ← BitVec.toNat_inj]
  generalize (d.extractLsb' 40 8).toNat = n
  unfold rateOf
  split <;> simp_all

theorem headerGood_iff (d : BeatData) : headerGood d = true ↔
    d.extractLsb' 0 32 = 0x31434A55 ∧ checkSumOk d = true ∧ (d.extractLsb' 32 8).toNat ≤ 7 ∧
      (d.extractLsb' 40 8).toNat ≤ 3 := by
  rw [headerGood, headerCount_eq, headerRate_eq]
  simp only [Bool.and_eq_true, decide_eq_true_eq, and_assoc]
  rfl

/-! ### The two outcomes -/

@[simp] theorem State.setHeader_pb (s : State) (d : BeatData) :
    (s.setHeader d).pb = { s.pb with controlBase := headerBase d } := rfl

@[simp] theorem State.setHeader_stl (s : State) (d : BeatData) :
    (s.setHeader d).stl =
      { s.stl with lineRate := rateOf (headerRate d), image := some (.records (headerCount d) 0) } := rfl

/-- What the entry to READY writes (R188). -/
def readyBlocks : List Block := [.stl, .evu, .rpw, .line, .warb]

theorem changes_ready (s : State) : s.changesOnly s.enterReady readyBlocks :=
  changes_enterReady (by decide) (by decide) (by decide) (by decide) (by decide) (s.changesOnly_refl _)

@[simp] theorem State.enterReady_pb (s : State) : s.enterReady.pb = s.pb := changes_ready s .pb (by decide)
@[simp] theorem State.enterReady_crec (s : State) : s.enterReady.crec = s.crec := changes_ready s .crec (by decide)
@[simp] theorem State.enterReady_stl (s : State) : s.enterReady.stl = s.stl.finish := s.enterReady_facts.1

/-- What a header writes. -/
def headerBlocks : List Block := .pb :: readyBlocks

theorem changes_header {s t : State} (h : s.changesOnly t headerBlocks) : s.changesOnly t.enterReady headerBlocks :=
  State.changesOnly_trans h (State.changesOnly_mono (changes_ready t) (by decide))

theorem changes_setHeader (s : State) (d : BeatData) : s.changesOnly (s.setHeader d) headerBlocks :=
  changes_setStl _ (by decide) (changes_setPb _ (by decide) (s.changesOnly_refl _))

/-- A good header moves the window, sets the rate, and begins the records or, at count 0, READY (R186). -/
theorem State.goodHeader_facts (s : State) (d : BeatData) :
    (s.goodHeader d).pb = { s.pb with controlBase := headerBase d } ∧
      (s.goodHeader d).stl.lineRate = rateOf (headerRate d) ∧
      (headerCount d ≠ 0 → (s.goodHeader d).stl.part = s.stl.part ∧
        (s.goodHeader d).stl.image = some (.records (headerCount d) 0)) ∧
      (headerCount d = 0 → (s.goodHeader d).stl.part = .ready ∧ (s.goodHeader d).stl.image = none) ∧
      s.changesOnly (s.goodHeader d) headerBlocks := by
  by_cases hcount : headerCount d = 0
  · rw [State.goodHeader_of_empty hcount, State.enterReady_pb, State.enterReady_stl]
    exact ⟨rfl, rfl, fun h => absurd hcount h, fun _ => ⟨rfl, rfl⟩, changes_header (changes_setHeader s d)⟩
  · rw [State.goodHeader_of_records hcount]
    exact ⟨rfl, rfl, fun _ => ⟨rfl, rfl⟩, fun h => absurd h hcount, changes_setHeader s d⟩

@[simp] theorem State.failHeader_pb (s : State) : s.failHeader.pb = { s.pb with controlBase := 0xFFFFFFF000 } := rfl
@[simp] theorem State.failHeader_stl (s : State) :
    s.failHeader.stl = { s.stl with lineRate := .baud1M, storeFault := true } := rfl

/-- A bad header leaves the built-in window and rate and a latched store fault, and READY (R186, R188). -/
theorem State.badHeader_facts (s : State) :
    s.badHeader.pb = { s.pb with controlBase := 0xFFFFFFF000 } ∧ s.badHeader.stl.lineRate = .baud1M ∧
      s.badHeader.stl.storeFault = true ∧ s.badHeader.stl.part = .ready ∧
      s.badHeader.evu.set.getLsbD 18 = true ∧ s.changesOnly s.badHeader headerBlocks := by
  have hframe : s.changesOnly s.failHeader headerBlocks :=
    changes_setStl _ (by decide) (changes_setPb _ (by decide) (s.changesOnly_refl _))
  obtain ⟨hstl, _, hevu⟩ := s.failHeader.enterReady_facts
  rw [State.badHeader_eq, State.enterReady_pb, hstl, hevu, State.failHeader_stl, if_pos rfl]
  exact ⟨rfl, rfl, rfl, rfl, EventUnit.latch_getLsbD _ _ _, changes_header hframe⟩

theorem exec_imageHeader_of_awaited {s : State} (dt : Nat) (d : BeatData) (hpart : s.stl.part = .loading)
    (himage : s.stl.image = some .header) :
    exec (.imageHeader dt d) s =
      .next (if headerGood d then (s.begin dt).goodHeader d else (s.begin dt).badHeader).settle := by
  rw [exec_imageHeader, execImageHeader, State.begin_stl, if_pos ⟨hpart, himage⟩]

/-- Settles O59: a good header by `State.goodHeader_facts`, a bad one by `State.badHeader_facts`. -/
theorem headerSetsWindowAndRateOrMarksAFault : Obligations.HeaderSetsWindowAndRateOrMarksAFault := by
  intro dt d s hpart himage
  have hexec := exec_imageHeader_of_awaited dt d hpart himage
  have hgood := headerGood_iff d
  by_cases hd : headerGood d = true
  · obtain ⟨hpb, hrate, hrecords, hempty, hframe⟩ := (s.begin dt).goodHeader_facts d
    rw [if_pos hd] at hexec
    refine ⟨_, hexec, ?_, fun _ _ _ _ => ⟨?_, ?_, fun hne => ?_, fun hzero => ?_⟩, fun hbad => ?_, ?_⟩
    · rw [State.settle_crec]
      exact (hframe .crec (by decide)).trans (s.begin_crec dt)
    · rw [State.settle_pb, hpb, State.begin_pb, headerBase_eq]
    · rw [State.settle_stl, hrate, rateOf_headerRate]
    · rw [State.settle_stl, ← headerCount_eq]
      have hcount : headerCount d ≠ 0 := fun h => hne (BitVec.toNat_inj.mp (by rw [← headerCount_eq, h]; rfl))
      obtain ⟨hp, hi⟩ := hrecords hcount
      exact ⟨hp.trans (by rw [State.begin_stl, hpart]), hi⟩
    · rw [State.settle_stl]
      exact hempty (by rw [headerCount_eq, hzero]; rfl)
    · obtain ⟨htag, hsum, hcount, hrate'⟩ := hgood.mp hd
      obtain h | h | h | h := hbad
      · exact absurd htag h
      · simp [hsum] at h
      · omega
      · omega
    · exact changes_settle (by decide) (by decide) (by decide) (State.changesOnly_mono hframe (by decide))
  · obtain ⟨hpb, hrate, hfault, hready, hlatched, hframe⟩ := (s.begin dt).badHeader_facts
    rw [if_neg hd] at hexec
    refine ⟨_, hexec, ?_, fun htag hsum hcount hrate' => ?_, fun _ => ?_, ?_⟩
    · rw [State.settle_crec]
      exact (hframe .crec (by decide)).trans (s.begin_crec dt)
    · exact absurd (hgood.mpr ⟨htag, hsum, hcount, hrate'⟩) hd
    · rw [State.settle_pb, State.settle_stl, State.settle_evu, hpb, State.begin_pb]
      exact ⟨rfl, hrate, hfault, hready, hlatched⟩
    · exact changes_settle (by decide) (by decide) (by decide) (State.changesOnly_mono hframe (by decide))

end Sys2Proof.Machine
end

section
/-! PROOFS. Control records as the table of kinds has them (Tables 10.1 and 10.2), and the records of the start-up image
(R187): the fields, the checks against the table, the command of each row, and what a record keeps whatever its kind. -/

namespace Sys2Proof.Machine

/-! ### The fields of a record and the table of kinds -/

theorem kindOf_eq (d : BeatData) : kindOf d = (d.extractLsb' 0 16).toNat := by
  rw [kindOf, halfLo, extractLsb'_wordOf d 0 0 16 (by decide)]

theorem targetOf_eq (d : BeatData) : targetOf d = (d.extractLsb' 16 16).toNat := by
  rw [targetOf, halfHi, extractLsb'_wordOf d 0 16 16 (by decide)]

theorem paramsOf_eq (d : BeatData) :
    paramsOf d = ⟨d.extractLsb' 32 32, d.extractLsb' 64 32, d.extractLsb' 96 32, d.extractLsb' 128 32,
      d.extractLsb' 160 32, d.extractLsb' 192 32⟩ := rfl

theorem targetOk_le {kind target : Nat} (h : targetOk kind target = true) : target ≤ 4 := by
  unfold targetOk at h
  split at h
  · exact (of_decide_eq_true h).trans (by decide)
  · split at h
    · exact of_decide_eq_true h
    · exact (of_decide_eq_true h).le.trans (by decide)

/-- The table has the kinds 1..14, each with its valid targets (R166). -/
theorem recordTable_some_iff (dt : Nat) (p : Params) (kind target : Nat) :
    (∃ x, recordTable dt p kind target = some x) ↔ 1 ≤ kind ∧ kind ≤ 14 ∧ targetOk kind target = true := by
  constructor
  · rintro ⟨x, hx⟩
    unfold recordTable at hx
    split at hx <;> simp_all [targetOk]
  · rintro ⟨hlow, hhigh, htarget⟩
    have hbound : target ≤ 4 := targetOk_le htarget
    interval_cases kind <;> interval_cases target <;> simp [targetOk] at htarget <;> exact ⟨_, rfl⟩

/-- A slot with a zero sum passes exactly if its kind and target are valid (R166). -/
theorem slotReason_none_iff {d : BeatData} (hsum : checkSumOk d = true) :
    slotReason ⟨d, true⟩ = none ↔ 1 ≤ kindOf d ∧ kindOf d ≤ 14 ∧ targetOk (kindOf d) (targetOf d) = true := by
  by_cases hkind : kindOf d < 1 ∨ 14 < kindOf d
  · rw [slotReason_of_badKind (slot := ⟨d, true⟩) rfl hsum hkind]
    simp only [reduceCtorEq, false_iff]
    omega
  · obtain ⟨hlow, hhigh⟩ : 1 ≤ kindOf d ∧ kindOf d ≤ 14 := by omega
    cases htarget : targetOk (kindOf d) (targetOf d) with
    | false =>
      rw [slotReason_of_badTarget (slot := ⟨d, true⟩) rfl hsum hlow hhigh htarget]
      simp only [reduceCtorEq, Bool.false_eq_true, and_false]
    | true =>
      have hnone : slotReason ⟨d, true⟩ = none := by
        simp only [slotReason, hsum, if_neg hkind, htarget, Bool.not_true, Bool.false_eq_true, if_false]
      exact iff_of_true hnone ⟨hlow, hhigh, rfl⟩

/-! ### The commands of the table -/

/-- The command `c` takes a record with an effect, with or without the settling after it (R165). -/
def takesWith (c : Instr) (dt : Nat) (effect : State → State) : Prop :=
  (∀ s, exec c s = .next (s.recordRow dt fun x => x.takeWith effect)) ∨
    ∀ s, exec c s = .next (s.recordRow dt fun x => x.takeSettled effect)

theorem exec_of_takesWith {c : Instr} {dt : Nat} {effect : State → State} (h : takesWith c dt effect) {s : State}
    (htakes : s.takesRecords = true) :
    ∃ t, exec c s = .next t ∧
      t.crec = { (effect (s.begin dt)).crec with
        taken := (effect (s.begin dt)).crec.taken + 1
        consec := 0 } ∧
      (effect (s.begin dt)).changesOnly t (.crec :: settleBlocks) := by
  have hcount : (effect (s.begin dt)).changesOnly ((s.begin dt).takeWith effect) (.crec :: settleBlocks) :=
    changes_setCrec _ (by decide) (State.changesOnly_refl _ _)
  obtain h | h := h
  · exact ⟨_, by rw [h, exec_taken effect htakes], State.takeWith_crec _ _, hcount⟩
  · refine ⟨_, by rw [h, exec_takenSettled effect htakes], (State.settle_crec _).trans (State.takeWith_crec _ _), ?_⟩
    exact changes_settle (by decide) (by decide) (by decide) hcount

/-- Each row of the table names a command and the effect of its kind (Table 10.2). -/
theorem takesWith_of_recordTable {dt kind target : Nat} {p : Params} {c : Instr} {effect : State → State}
    (h : recordTable dt p kind target = some (c, effect)) :
    (∀ u, recordEffect kind target p u = effect u) ∧ takesWith c dt effect := by
  unfold recordTable at h
  split at h <;> cases h
  all_goals refine ⟨fun _ => rfl, ?_⟩
  case h_1 | h_6 | h_8 | h_9 | h_10 | h_11 | h_12 | h_13 | h_20 => exact .inl fun _ => rfl
  all_goals exact .inr fun _ => rfl

/-! ### What a record keeps whatever its kind -/

/-- What every record keeps: the writes of the port bridge, the counts of records and the store fault mark. -/
structure RecordKeeps (s t : State) : Prop where
  writes : t.pb = { s.pb with profileBase := t.pb.profileBase, reads := t.pb.reads, holds := t.pb.holds }
  counts : t.crec = { s.crec with limit := t.crec.limit }
  fault : t.stl.storeFault = s.stl.storeFault

theorem recordKeeps_trans {s t u : State} (h : RecordKeeps s t) (k : RecordKeeps t u) : RecordKeeps s u where
  writes := by rw [k.writes, h.writes]
  counts := by rw [k.counts, h.counts]
  fault := k.fault.trans h.fault

theorem recordKeeps_of_changes {s t : State} {bs : List Block} (h : s.changesOnly t bs) (hpb : Block.pb ∉ bs)
    (hcrec : Block.crec ∉ bs) (hstl : Block.stl ∉ bs) : RecordKeeps s t where
  writes := by rw [show t.pb = s.pb from h .pb hpb]
  counts := by rw [show t.crec = s.crec from h .crec hcrec]
  fault := congrArg StoreLoader.storeFault (h .stl hstl)

/-- An update of planning, frames and reports changes no write of the port bridge. -/
theorem Inner.writes {s t : State} (h : Inner s t) :
    t.pb = { s.pb with profileBase := t.pb.profileBase, reads := t.pb.reads, holds := t.pb.holds } := by
  cases h with
  | free h => rw [show t.pb = s.pb from h .pb (by decide)]
  | create m k f => rw [show (s.createEntry m k f).pb = s.pb from
      changes_createEntry m k f (s.changesOnly_refl planBlocks) .pb (by decide)]
  | _ => rfl

/-- Updates of planning, frames and reports that leave the record unit and the loader alone keep what records keep. -/
theorem recordKeeps_of_inners {s t : State} {bs : List Block} (h : Inners s t) (hframe : s.changesOnly t bs)
    (hcrec : Block.crec ∉ bs) (hstl : Block.stl ∉ bs) : RecordKeeps s t where
  writes := h.keeps (P := fun u =>
      u.pb = { s.pb with profileBase := u.pb.profileBase, reads := u.pb.reads, holds := u.pb.holds })
    (fun _ _ k hu => by rw [k.writes, hu]) rfl
  counts := by rw [show t.crec = s.crec from hframe .crec hcrec]
  fault := congrArg StoreLoader.storeFault (hframe .stl hstl)

theorem recordKeeps_abort (s : State) (c : Ctx) (o : FrameOutcome) : RecordKeeps s (s.abort c o) :=
  recordKeeps_of_inners (inners_abort c o (inners_refl s)) (changes_abort c o (s.changesOnly_refl _)) (by decide)
    (by decide)

theorem recordKeeps_resetAll (s : State) : RecordKeeps s s.recordResetAll := by
  unfold State.recordResetAll
  split
  · exact recordKeeps_trans (t := s.setStl { s.stl with pendingReset := true }) ⟨rfl, rfl, rfl⟩
      (recordKeeps_of_inners (inners_abortBoth _ (inners_refl _)) (changes_abortBoth _ (State.changesOnly_refl _ _))
        (by decide) (by decide))
  · exact ⟨rfl, rfl, rfl⟩

theorem recordKeeps_resetEffect (scope : Nat) (s : State) : RecordKeeps s (resetEffect scope s) := by
  unfold resetEffect
  split
  · exact recordKeeps_resetAll s
  · exact recordKeeps_abort s _ _
  · exact recordKeeps_abort s _ _
  · exact recordKeeps_of_changes (changes_resetTracking (s.changesOnly_refl _)) (by decide) (by decide) (by decide)
  · exact ⟨rfl, rfl, rfl⟩

/-- Whatever its kind, a record keeps the writes, the counts and the store fault mark (Table 10.2). -/
theorem recordKeeps_recordEffect (kind target : Nat) (p : Params) (s : State) :
    RecordKeeps s (recordEffect kind target p s) := by
  have h0 : ∀ bs, s.changesOnly s bs := s.changesOnly_refl
  unfold recordEffect
  split
  · exact ⟨rfl, rfl, rfl⟩
  · exact recordKeeps_of_changes (changes_changeSettings _ _ (h0 _)) (by decide) (by decide) (by decide)
  · exact recordKeeps_of_changes (changes_recordOptics _ _ (h0 _)) (by decide) (by decide) (by decide)
  · unfold State.recordLineMemory
    split
    · exact recordKeeps_of_changes (changes_applySplit_only _ (fun _ hb => hb) (h0 _)) (by decide) (by decide) (by decide)
    · exact ⟨rfl, rfl, rfl⟩
  · exact recordKeeps_of_changes (changes_track p (h0 _)) (by decide) (by decide) (by decide)
  · exact ⟨rfl, rfl, rfl⟩
  · exact ⟨rfl, rfl, rfl⟩
  · exact recordKeeps_of_changes (bs := [.psto, .evu]) (changes_latch _ (by decide) (changes_setPsto _ (by decide) (h0 _)))
      (by decide) (by decide) (by decide)
  · exact ⟨rfl, rfl, rfl⟩
  · exact ⟨rfl, rfl, rfl⟩
  · exact recordKeeps_of_changes (bs := [.rpw, .evu])
      (changes_latchIf _ _ (by decide) (changes_setRpw _ (by decide) (h0 _))) (by decide) (by decide) (by decide)
  · exact ⟨rfl, rfl, rfl⟩
  · exact recordKeeps_of_changes (bs := [.rpw, .warb, .evu]) (changes_generate _ (by decide) (by decide) (by decide) (h0 _))
      (by decide) (by decide) (by decide)
  · exact recordKeeps_resetEffect _ s

/-! ### A record of the image (R187) -/

/-- The state once an image record is examined and the loader has counted it, before the entry to READY (R187). -/
def State.readRecord (s : State) (count read : Nat) (d : BeatData) : State :=
  (s.examineSlot ⟨d, true⟩).setStl ((s.examineSlot ⟨d, true⟩).stl.readOne count read d)

/-- The image ends with this record: the last one, or a RESET of scope ALL that is taken (R187). -/
def imageEnds (count read : Nat) (d : BeatData) : Prop :=
  count ≤ read + 1 ∨ slotReason ⟨d, true⟩ = none ∧ kindOf d = 14 ∧ targetOf d = 0

theorem endsImage_iff (d : BeatData) :
    endsImage d = true ↔ slotReason ⟨d, true⟩ = none ∧ kindOf d = 14 ∧ targetOf d = 0 := by
  simp only [endsImage, Bool.and_eq_true, decide_eq_true_eq, Option.isNone_iff_eq_none, and_assoc]

theorem State.imageRecord_of_ends {count read : Nat} {d : BeatData} (s : State) (h : imageEnds count read d) :
    s.imageRecord count read d = (s.readRecord count read d).enterReady :=
  if_pos (by rw [endsImage_iff]; exact h.symm)

theorem State.imageRecord_of_goesOn {count read : Nat} {d : BeatData} (s : State) (h : ¬imageEnds count read d) :
    s.imageRecord count read d = s.readRecord count read d :=
  if_neg (by rw [endsImage_iff]; exact fun hends => h hends.symm)

theorem exec_imageRecord_of_reading {s : State} {count read : Nat} (dt : Nat) (d : BeatData)
    (hpart : s.stl.part = .loading) (himage : s.stl.image = some (.records count read)) :
    exec (.imageRecord dt d) s = .next ((s.begin dt).imageRecord count read d).settle := by
  have hreading : (s.begin dt).stl.reading = some (count, read) := by
    rw [State.begin_stl, StoreLoader.reading, hpart, himage]
  rw [exec_imageRecord, execImageRecord, hreading]

@[simp] theorem State.readRecord_crec (s : State) (count read : Nat) (d : BeatData) :
    (s.readRecord count read d).crec = (s.examineSlot ⟨d, true⟩).crec := rfl

@[simp] theorem State.readRecord_evu (s : State) (count read : Nat) (d : BeatData) :
    (s.readRecord count read d).evu = (s.examineSlot ⟨d, true⟩).evu := rfl

@[simp] theorem State.readRecord_image (s : State) (count read : Nat) (d : BeatData) :
    (s.readRecord count read d).stl.image = some (.records count (read + 1)) := rfl

@[simp] theorem State.readRecord_fault (s : State) (count read : Nat) (d : BeatData) :
    (s.readRecord count read d).stl.storeFault =
      ((s.examineSlot ⟨d, true⟩).stl.storeFault || (slotReason ⟨d, true⟩).isSome) := rfl

theorem State.enterReady_mask (s : State) : s.enterReady.evu.mask = s.evu.mask := by
  rw [s.enterReady_facts.2.2]
  split
  · exact EventUnit.latch_mask _ _ _
  · rfl

/-- What the end of an image record leaves, whether the image ends or not. -/
theorem State.imageRecord_facts (s : State) (count read : Nat) (d : BeatData) :
    (s.imageRecord count read d).crec = (s.examineSlot ⟨d, true⟩).crec ∧
      (s.imageRecord count read d).evu.mask = (s.examineSlot ⟨d, true⟩).evu.mask ∧
      (s.imageRecord count read d).stl.storeFault =
        ((s.examineSlot ⟨d, true⟩).stl.storeFault || (slotReason ⟨d, true⟩).isSome) ∧
      (s.examineSlot ⟨d, true⟩).changesOnly (s.imageRecord count read d) readyBlocks := by
  have hread : (s.examineSlot ⟨d, true⟩).changesOnly (s.readRecord count read d) readyBlocks :=
    changes_setStl _ (by decide) (State.changesOnly_refl _ _)
  by_cases hends : imageEnds count read d
  · rw [s.imageRecord_of_ends hends, State.enterReady_crec, State.enterReady_mask, State.enterReady_stl]
    exact ⟨rfl, rfl, rfl, State.changesOnly_trans hread (changes_ready _)⟩
  · rw [s.imageRecord_of_goesOn hends]
    exact ⟨rfl, rfl, rfl, hread⟩

theorem State.examineSlot_of_rejected {slot : Slot} {r : RejectReason} (s : State) (h : slotReason slot = some r) :
    s.examineSlot slot = s.rejectSlot r := by
  rw [State.examineSlot, h]

theorem State.examineSlot_of_taken {slot : Slot} (s : State) (h : slotReason slot = none) :
    s.examineSlot slot =
      s.takeWith (recordEffect (kindOf slot.data) (targetOf slot.data) (paramsOf slot.data)) := by
  rw [State.examineSlot, h]

/-- The part and the image after a record: READY at the end of the image, the next record otherwise (R187). -/
theorem State.imageRecord_part {s : State} {count read : Nat} (d : BeatData) :
    (imageEnds count read d → (s.imageRecord count read d).stl.part = .ready ∧
      (s.imageRecord count read d).stl.image = none) ∧
    (¬imageEnds count read d → (s.imageRecord count read d).stl.part = s.stl.part ∧
      (s.imageRecord count read d).stl.image = some (.records count (read + 1))) := by
  refine ⟨fun h => ?_, fun h => ?_⟩
  · rw [s.imageRecord_of_ends h, State.enterReady_stl]
    exact ⟨rfl, rfl⟩
  · rw [s.imageRecord_of_goesOn h]
    exact ⟨(updates_imageSlot s count read d).part, rfl⟩

/-- What an image record can write past its slot (R187, R188). -/
def imageEndBlocks : List Block := [.stl, .crec, .evu, .rpw, .line, .warb, .stall0, .stall1, .grant]

/-- Settles O60: the fields and the checks by the table of kinds, the commands by `takesWith_of_recordTable`, and an image
record by the slot it examines. -/
theorem imageRecordIsCountedAndTheImageEnds : Obligations.ImageRecordIsCountedAndTheImageEnds := by
  refine ⟨fun d => ⟨kindOf_eq d, targetOf_eq d, paramsOf_eq d, fun hsum => ?_⟩, ?_, ?_⟩
  · rw [slotReason_none_iff hsum, recordTable_some_iff]
  · intro dt kind target p c effect h
    obtain ⟨heffect, htakes⟩ := takesWith_of_recordTable h
    exact ⟨heffect, fun s hs => exec_of_takesWith htakes hs⟩
  · intro dt count read d s hpart himage
    obtain ⟨hcrec, hmask, hfault, hframe⟩ := (s.begin dt).imageRecord_facts count read d
    obtain ⟨hends, hgoes⟩ := State.imageRecord_part (s := s.begin dt) (count := count) (read := read) d
    refine ⟨_, exec_imageRecord_of_reading dt d hpart himage, fun r hr => ?_, fun hnone => ?_, fun h => ?_,
      fun hlast hreset => ?_, fun ⟨r, hr⟩ => ?_⟩
    · rw [State.settle_crec, State.settle_stl, hcrec, hfault, State.examineSlot_of_rejected _ hr, State.rejectSlot_crec,
        State.begin_crec, hr]
      exact ⟨rfl, rfl, rfl, Bool.or_true _⟩
    · have hslot := (s.begin dt).examineSlot_of_taken hnone
      rw [hslot] at hcrec hmask hfault hframe
      have hkeeps := recordKeeps_recordEffect (kindOf d) (targetOf d) (paramsOf d) (s.begin dt)
      refine ⟨?_, ?_, ?_, ?_, fun e he => ⟨?_, ?_, fun hload => ?_, ?_⟩⟩
      · rw [State.settle_crec, hcrec, State.takeWith_crec, hkeeps.counts, State.begin_crec]; rfl
      · rw [State.settle_crec, hcrec]; rfl
      · rw [State.settle_crec, hcrec, State.takeWith_crec, hkeeps.counts, State.begin_crec]; rfl
      · rw [State.settle_stl, hfault, hnone]
        exact (Bool.or_false _).trans (hkeeps.fault.trans (by rw [State.begin_stl]))
      · rw [State.settle_crec, hcrec, he]; rfl
      · rw [State.settle_evu, hmask, he]; rfl
      · have hon : ¬imageEnds count read d := fun h => by
          rw [State.settle_stl, (hends h).1] at hload; cases hload
        rw [(s.begin dt).imageRecord_of_goesOn hon, State.readRecord, hslot, he]
        exact changes_settle (by decide) (by decide) (by decide)
          (changes_setStl _ (by decide) (changes_setCrec _ (by decide) (State.changesOnly_refl _ _)))
      · have hcount : e.changesOnly ((s.begin dt).takeWith (recordEffect (kindOf d) (targetOf d) (paramsOf d)))
            imageEndBlocks := he ▸ changes_setCrec _ (by decide) (State.changesOnly_refl _ _)
        exact changes_settle (by decide) (by decide) (by decide)
          (State.changesOnly_trans hcount (State.changesOnly_mono hframe (by decide)))
    · rw [State.settle_stl]
      exact hends h
    · obtain ⟨hp, hi⟩ := hgoes (by rintro (h | h) <;> [omega; exact hreset h])
      rw [State.settle_stl]
      exact ⟨hp.trans (by rw [State.begin_stl, hpart]), hi⟩
    · rw [State.examineSlot_of_rejected _ hr] at hframe
      exact changes_settle (by decide) (by decide) (by decide)
        (State.changesOnly_trans (changes_rejectSlot r (by decide) (by decide) (State.changesOnly_refl _ _))
          (State.changesOnly_mono hframe (by decide)))

end Sys2Proof.Machine
end

section
/-! PROOFS. The head of the upstream write channel (R1, R8, R9, R11): when the head is dealt with once, what a write taken
as a pass write leaves, and the slots of a write into the control window in their order (R165, R169). -/

namespace Sys2Proof.Machine

/-! ### The head offered once -/

theorem exec_upstreamWrite (dt : Nat) (w : UpWrite) (s : State) :
    exec (.upstreamWrite dt w) s = execUpstreamWrite dt w s := rfl

theorem exec_heldWriteReoffered (dt : Nat) (s : State) :
    exec (.heldWriteReoffered dt) s = .next (s.begin dt).offerHead.settle := rfl

theorem State.begin_route (s : State) (dt : Nat) (w : UpWrite) : (s.begin dt).route w = s.route w := by
  unfold State.begin State.advance; split <;> rfl

@[simp] theorem State.presentWrite_pb (s : State) (w : UpWrite) :
    (s.presentWrite w).pb = { s.pb with channel := s.pb.channel ++ [w] } := rfl

theorem State.presentWrite_route (s : State) (w v : UpWrite) : (s.presentWrite w).route v = s.route v := rfl

theorem changes_presentWrite {s t : State} {bs : List Block} (w : UpWrite) (hp : Block.pb ∈ bs) (h : s.changesOnly t bs) :
    s.changesOnly (t.presentWrite w) bs := changes_setPb _ hp h

/-- A write is taken or offered with room in the response queue, no pending reset, and the part out of reset (R1). -/
theorem State.writeBlocked_eq_false {s : State} (hpart : s.stl.part ≠ .inReset) (hreset : s.stl.pendingReset = false)
    (hroom : s.pb.responses.length < 32) : s.writeBlocked = false := by
  simp [State.writeBlocked, hpart, hreset, hroom]

/-- A head that is not to be offered again has been dealt with once (R11, R148). -/
theorem State.offerHead_of_head {s : State} {w : UpWrite} {rest : List UpWrite} (hchannel : s.pb.channel = w :: rest)
    (hopen : s.writeBlocked = false) (hdue : (s.takeAlong w (s.route w)).reofferDue = false) :
    s.offerHead = s.takeAlong w (s.route w) := by
  unfold State.offerHead Sys2Proof.Machine.offerHead
  simp only [hchannel, hopen, Bool.false_eq_true, if_false, hdue]

theorem State.reofferDue_of_unheld {s : State} (h : s.pb.heldBy = none) : s.reofferDue = false := by
  rw [State.reofferDue, h]

theorem State.reofferDue_of_held {s : State} {c : Ctx} (h : s.pb.heldBy = some c)
    (hstate : (s.ctx c).state.resting = false) : s.reofferDue = false := by
  rw [State.reofferDue, h]; exact hstate

/-- The state in which a write of `s` presented on an empty channel is offered. -/
def State.presented (s : State) (dt : Nat) (w : UpWrite) : State := (s.begin dt).presentWrite w

theorem State.presented_pb {s : State} (dt : Nat) (w : UpWrite) (hempty : s.pb.channel = []) :
    (s.presented dt w).pb = { s.pb with channel := [w] } := by
  rw [State.presented, State.presentWrite_pb, State.begin_pb, hempty]; rfl

theorem State.presented_route (s : State) (dt : Nat) (w v : UpWrite) : (s.presented dt w).route v = s.route v := by
  rw [State.presented, State.presentWrite_route, State.begin_route]

theorem State.presented_stl (s : State) (dt : Nat) (w : UpWrite) : (s.presented dt w).stl = s.stl := s.begin_stl dt

theorem State.presented_warb (s : State) (dt : Nat) (w : UpWrite) : (s.presented dt w).warb = s.warb := s.begin_warb dt

theorem changes_presented (s : State) (dt : Nat) (w : UpWrite) :
    (s.begin dt).changesOnly (s.presented dt w) [.pb] :=
  changes_presentWrite w (by decide) (State.changesOnly_refl _ _)

/-- UPSTREAM_WRITE on an empty channel with room, where the write is not to be offered again. -/
theorem exec_upstreamWrite_once {s : State} {w : UpWrite} (dt : Nat) (hpart : s.stl.part ≠ .inReset)
    (hreset : s.stl.pendingReset = false) (hempty : s.pb.channel = []) (hroom : s.pb.responses.length < 32)
    (hdue : ((s.presented dt w).takeAlong w (s.route w)).reofferDue = false) :
    exec (.upstreamWrite dt w) s = .next ((s.presented dt w).takeAlong w (s.route w)).settle := by
  have hpb := State.presented_pb dt w hempty
  have hportOpen : (s.begin dt).portOpen = true := by rw [State.portOpen, State.begin_stl]; exact decide_eq_true hpart
  rw [← s.presented_route dt w w] at hdue ⊢
  rw [exec_upstreamWrite, execUpstreamWrite, if_pos hportOpen]
  have hstl := s.presented_stl dt w
  exact congrArg (fun u : State => Host.Outcome.next u.settle) (State.offerHead_of_head (s := s.presented dt w)
    (by rw [hpb])
    (State.writeBlocked_eq_false (by rwa [hstl]) (by rwa [hstl]) (by rwa [hpb])) hdue)

/-! ### A write taken as a pass write (R8) -/

@[simp] theorem State.presentPass_pb (s : State) : s.presentPass.pb = s.pb := by
  unfold State.presentPass; split <;> rfl

theorem State.passHead_pb (s : State) (w : UpWrite) :
    (s.passHead w).pb = { s.pb with
      responses := s.pb.responses ++ [⟨.passed, w, false, none⟩]
      channel := s.pb.channel.tail
      heldBy := none } := by
  rw [State.passHead, State.presentPass_pb]; rfl

/-- The oldest pass write not yet issued, with a new one behind the queue. -/
theorem State.nextPass_append {s t : State} {w : UpWrite}
    (h : t.pb.responses = s.pb.responses ++ [⟨.passed, w, false, none⟩]) (hnone : s.nextPass = none) :
    t.nextPass = some w := by
  rw [State.nextPass, Option.map_eq_none_iff] at hnone
  rw [State.nextPass, h, List.find?_append, hnone]
  rfl

theorem State.presentPass_of_busy {s : State} (h : s.warb.runs.pass ≠ none) : s.presentPass = s := by
  unfold State.presentPass
  split
  · next hnone _ => exact absurd hnone h
  · rfl

theorem State.presentPass_of_next {s : State} {w : UpWrite} (hidle : s.warb.runs.pass = none)
    (hnext : s.nextPass = some w) : s.presentPass = s.request .pass (passRun w) := by
  rw [State.presentPass, hidle, hnext]

/-- The state once a pass write has joined the response queue, before PASS is requested (R8, R12). -/
def State.queuePass (s : State) (w : UpWrite) : State := s.dropHead.appendResponse ⟨.passed, w, false, none⟩

theorem State.passHead_eq (s : State) (w : UpWrite) : s.passHead w = (s.queuePass w).presentPass := rfl

/-- The runs after a write is taken as a pass write: PASS is requested where it was idle (R8, R154). -/
theorem State.passHead_runs (s : State) (w : UpWrite) :
    (s.warb.runs.pass = none → s.nextPass = none →
      (s.passHead w).warb.runs =
        { s.warb.runs with pass := some ⟨.passWrite w, [⟨w.addr.toNat, w.beats.length⟩], false⟩ }) ∧
    (s.warb.runs.pass ≠ none → (s.passHead w).warb.runs = s.warb.runs) := by
  rw [State.passHead_eq]
  refine ⟨fun hidle hnone => ?_, fun hbusy => ?_⟩
  · rw [State.presentPass_of_next (s := s.queuePass w) hidle (State.nextPass_append (s := s) rfl hnone)]
    rfl
  · rw [State.presentPass_of_busy (s := s.queuePass w) hbusy]
    rfl

theorem State.settle_runs (s : State) : s.settle.warb.runs = s.warb.runs := by
  obtain ⟨_, _, _, hruns, _⟩ := Arbiter.eq_of_ungranted s.warb.settle_ungranted
  exact hruns

/-! ### The slots of a write into the control window (R165 to R169) -/

theorem State.examined_of_pending {s : State} (x : Slot) (h : s.stl.pendingReset = true) : State.examined x s s := by
  rw [State.examined, if_pos h]

theorem State.examinedAll_of_pending {s : State} (h : s.stl.pendingReset = true) :
    ∀ xs, State.examinedAll xs s s
  | [] => rfl
  | x :: xs => ⟨s, State.examined_of_pending x h, State.examinedAll_of_pending h xs⟩

/-- An examined slot, whatever the stall timers and the grant do after it (log 16). -/
theorem State.examined_of_examineSlot {s v : State} (x : Slot) (hreset : s.stl.pendingReset = false)
    (hafter : (s.examineSlot x).changesOnly v settleBlocks) : State.examined x s v := by
  have hcrec : v.crec = (s.examineSlot x).crec := hafter .crec (by decide)
  have hevu : v.evu = (s.examineSlot x).evu := hafter .evu (by decide)
  rw [State.examined, if_neg (by simp [hreset])]
  split
  · next r hr =>
    rw [State.examineSlot_of_rejected s hr] at hcrec hevu hafter
    refine ⟨hcrec.trans (State.rejectSlot_crec s r), ?_, ?_⟩
    · rw [hevu, State.rejectSlot_evu]
      split
      · rw [EventUnit.latch_set]; rfl
      · rfl
    · exact State.changesOnly_trans (changes_rejectSlot r (by decide) (by decide) (State.changesOnly_refl _ _))
        (State.changesOnly_mono hafter (by decide))
  · next hr =>
    rw [State.examineSlot_of_taken s hr] at hcrec hafter
    refine ⟨?_, State.changesOnly_trans (changes_setCrec _ (by decide) (State.changesOnly_refl _ _))
      (State.changesOnly_mono hafter (by decide))⟩
    have htaken := congrArg ControlUnit.taken
      (recordKeeps_recordEffect (kindOf x.data) (targetOf x.data) (paramsOf x.data) s).counts
    rw [hcrec, State.takeWith_crec, ← show _ = s.crec.taken from htaken]
    rfl

theorem State.completeSlot_changes (s : State) : s.changesOnly s.completeSlot settleBlocks :=
  changes_setWarb_ungranted _ (by decide) s.settle.warb.suspendIfDue_ungranted s.changesOnly_settle

/-- The slots of a burst are examined in their order (R165, R169). -/
theorem State.examinedAll_examineSlots : ∀ (xs : List Slot) (s : State), State.examinedAll xs s (examineSlots xs s)
  | [], _ => rfl
  | [x], s => by
    unfold examineSlots
    split
    · next h => exact State.examinedAll_of_pending h [x]
    · next h => exact ⟨_, State.examined_of_examineSlot x (by simpa using h) (State.changesOnly_refl _ _), rfl⟩
  | x :: y :: xs, s => by
    unfold examineSlots
    split
    · next h => exact State.examinedAll_of_pending h _
    · next h =>
      exact ⟨_, State.examined_of_examineSlot x (by simpa using h) (State.completeSlot_changes _),
        State.examinedAll_examineSlots (y :: xs) _⟩

/-- A slot leaves the writes of the port bridge alone. -/
theorem State.examineSlot_writes (s : State) (x : Slot) :
    (s.examineSlot x).pb.responses = s.pb.responses ∧ (s.examineSlot x).pb.heldBy = s.pb.heldBy := by
  cases hr : slotReason x with
  | some r =>
    have hpb : (s.rejectSlot r).pb = s.pb :=
      changes_rejectSlot (bs := [.crec, .evu]) r (by decide) (by decide) (s.changesOnly_refl _) .pb (by decide)
    rw [State.examineSlot_of_rejected s hr, hpb]
    exact ⟨rfl, rfl⟩
  | none =>
    have hwrites := (recordKeeps_recordEffect (kindOf x.data) (targetOf x.data) (paramsOf x.data) s).writes
    rw [State.examineSlot_of_taken s hr, State.takeWith_pb, hwrites]
    exact ⟨rfl, rfl⟩

/-- The slots of a burst leave the writes of the port bridge alone. -/
theorem State.examineSlots_writes : ∀ (xs : List Slot) (s : State),
    (examineSlots xs s).pb.responses = s.pb.responses ∧ (examineSlots xs s).pb.heldBy = s.pb.heldBy
  | [], _ => ⟨rfl, rfl⟩
  | [x], s => by
    unfold examineSlots
    split
    · exact ⟨rfl, rfl⟩
    · exact s.examineSlot_writes x
  | x :: y :: xs, s => by
    unfold examineSlots
    split
    · exact ⟨rfl, rfl⟩
    · obtain ⟨hresp, hheld⟩ := State.examineSlots_writes (y :: xs) (s.examineSlot x).completeSlot
      obtain ⟨hresp', hheld'⟩ := s.examineSlot_writes x
      have hpb : (s.examineSlot x).completeSlot.pb = (s.examineSlot x).pb :=
        (s.examineSlot x).completeSlot_changes .pb (by decide)
      rw [hpb] at hresp hheld
      exact ⟨hresp.trans hresp', hheld.trans hheld'⟩

/-- Settles O11: the write is taken by `State.passHead`, and its slots examined by `State.examinedAll_examineSlots`. -/
theorem passedWriteJoinsTheResponseQueue : Obligations.PassedWriteJoinsTheResponseQueue := by
  intro dt w s hpart hreset hempty hroom
  have hpb : ((s.presented dt w).passHead w).pb = { s.pb with
      responses := s.pb.responses ++ [⟨.passed, w, false, none⟩]
      heldBy := none } := by
    rw [State.passHead_pb, State.presented_pb dt w hempty]
    show ({ s.pb with responses := _, channel := [], heldBy := none } : PortBridge) = _
    rw [← hempty]
  have hpass : (s.begin dt).changesOnly ((s.presented dt w).passHead w) [.pb, .warb] :=
    changes_passHead w (by decide) (by decide) (State.changesOnly_mono (changes_presented s dt w) (by decide))
  refine ⟨fun hroute => ?_, fun hroute => ?_⟩
  · obtain ⟨hidle, hbusy⟩ := (s.presented dt w).passHead_runs w
    rw [State.presented_warb] at hidle hbusy
    refine ⟨((s.presented dt w).passHead w).settle, ?_, ?_, fun hnone hnext => ?_, fun hsome => ?_, ?_⟩
    · rw [exec_upstreamWrite_once dt hpart hreset hempty hroom
        (State.reofferDue_of_unheld (by rw [hroute]; exact congrArg PortBridge.heldBy hpb)), hroute]
      rfl
    · rw [State.settle_pb, hpb]
    · rw [State.settle_runs]
      refine hidle hnone ?_
      rwa [State.nextPass, State.presented_pb dt w hempty]
    · rw [State.settle_runs, hbusy hsome]
    · exact changes_settle (by decide) (by decide) (by decide) (State.changesOnly_mono hpass (by decide))
  · obtain ⟨hresp, hheld⟩ := State.examineSlots_writes (w.slots s.pb.controlBase) ((s.presented dt w).passHead w)
    have htake : (s.presented dt w).takeAlong w .control =
        examineSlots (w.slots s.pb.controlBase) ((s.presented dt w).passHead w) := by
      rw [State.takeAlong, State.presented_pb dt w hempty]
    refine ⟨(examineSlots (w.slots s.pb.controlBase) ((s.presented dt w).passHead w)).settle,
      (s.presented dt w).passHead w, examineSlots (w.slots s.pb.controlBase) ((s.presented dt w).passHead w), ?_, hpb,
      hpass, State.examinedAll_examineSlots _ _, State.changesOnly_settle _, ?_⟩
    · rw [exec_upstreamWrite_once dt hpart hreset hempty hroom
        (State.reofferDue_of_unheld (by rw [hroute, htake, hheld, hpb])), hroute, htake]
    · rw [State.settle_pb, hresp]

end Sys2Proof.Machine
end

section
/-! PROOFS. A write into the profile window (R10, R73 to R75): the bytes and the granules that the beats of a burst leave in
the staging table, beat by beat. -/

namespace Sys2Proof.Machine

/-! ### One beat (R73, R74) -/

/-- A beat's byte `k` is copied from byte `skip` of the beat on, where its strobe is set. -/
def copiesByte (b : Beat) (skip k : Nat) : Prop := skip ≤ k ∧ b.strb.getLsbD k = true

/-- The bytes of a table after the first `n` bytes of a beat are copied at `off`. -/
theorem copyBytes_read {t : Table} (off skip : Nat) (b : Beat) (x : Nat) (ht : t.wf = true) : ∀ n,
    ((∀ k, k < n → copiesByte b skip k → x = off + k → 4096 ≤ x) → (copyBytes t off skip b n).read x = t.read x) ∧
      ∀ k, k < n → copiesByte b skip k → x = off + k → x < 4096 →
        (copyBytes t off skip b n).read x = b.data.extractLsb' (8 * k) 8
  | 0 => ⟨fun _ => rfl, fun k hk => absurd hk (Nat.not_lt_zero k)⟩
  | n + 1 => by
    obtain ⟨hkept, hcopied⟩ := copyBytes_read off skip b x ht n
    unfold copyBytes
    simp only [Bool.and_eq_true, decide_eq_true_eq]
    split
    · next hlast =>
      obtain ⟨hlast, hbelow⟩ := hlast
      rw [Table.read_write _ _ _ (copyBytes_wf off skip b ht n)]
      refine ⟨fun h => ?_, fun k hk hc hx hlow => ?_⟩
      · have hne : x ≠ off + n := fun hx => absurd (h n (Nat.lt_succ_self n) hlast hx) (by omega)
        rw [if_neg hne]
        exact hkept fun k hk => h k (Nat.lt_succ_of_lt hk)
      · by_cases hkn : k = n
        · rw [if_pos (by rw [hx, hkn]), hkn]
        · rw [if_neg (by omega)]
          exact hcopied k (by omega) hc hx hlow
    · next hlast =>
      refine ⟨fun h => hkept fun k hk => h k (Nat.lt_succ_of_lt hk), fun k hk hc hx hlow => ?_⟩
      have hkn : k ≠ n := fun hkn => hlast ⟨hkn ▸ hc, by omega⟩
      exact hcopied k (by omega) hc hx hlow

@[simp] theorem ProfileStore.copyBeat_staging (p : ProfileStore) (base a skip : Nat) (b : Beat) :
    (p.copyBeat base (a, skip, b)).stagingTable = copyBytes p.stagingTable (a - base) skip b 32 := by
  simp only [ProfileStore.copyBeat]

/-- The granules after a beat: one more where the burst set its 32 strobes (R74). -/
theorem ProfileStore.copyBeat_coverage (p : ProfileStore) (base a skip : Nat) (b : Beat) {g : Nat} (hg : g < 128)
    (halign : (a - base) % 32 = 0) :
    (p.copyBeat base (a, skip, b)).coverage.getLsbD g = true ↔
      p.coverage.getLsbD g = true ∨ b.strb = BitVec.allOnes 32 ∧ skip = 0 ∧ a - base = 32 * g := by
  show BitVec.getLsbD (if skip = 0 ∧ b.strb = BitVec.allOnes 32 ∧ a - base < 4096 then
    p.coverage ||| BitVec.ofNat 128 (2 ^ ((a - base) / 32)) else p.coverage) g = true ↔ _
  split
  · next hcovers =>
    obtain ⟨hskip, hstrb, hlow⟩ := hcovers
    rw [BitVec.getLsbD_or, BitVec.getLsbD_ofNat, Nat.testBit_two_pow, Bool.or_eq_true, Bool.and_eq_true,
      decide_eq_true_eq, decide_eq_true_eq]
    exact or_congr_right ⟨fun ⟨_, h⟩ => ⟨hstrb, hskip, by omega⟩, fun ⟨_, _, h⟩ => ⟨hg, by omega⟩⟩
  · next hcovers =>
    exact ⟨.inl, fun h => h.elim id fun ⟨hstrb, hskip, h⟩ => absurd ⟨hskip, hstrb, by omega⟩ hcovers⟩

/-! ### The beats of a burst -/

/-- The store after the placed beats `xs` (R73). -/
def ProfileStore.copyBeats (p : ProfileStore) (base : Nat) (xs : List (Nat × Nat × Beat)) : ProfileStore :=
  xs.foldl (fun p x => p.copyBeat base x) p

theorem ProfileStore.copyBeats_keeps (base : Nat) : ∀ (xs : List (Nat × Nat × Beat)) (p : ProfileStore),
    (p.copyBeats base xs).activeTable = p.activeTable ∧ (p.copyBeats base xs).hasActive = p.hasActive ∧
      (p.copyBeats base xs).pendingSwap = p.pendingSwap ∧ (p.copyBeats base xs).outcome = p.outcome
  | [], _ => ⟨rfl, rfl, rfl, rfl⟩
  | x :: xs, p => ProfileStore.copyBeats_keeps base xs (p.copyBeat base x)

/-- A byte that no beat copies reads as before (R73). -/
theorem ProfileStore.copyBeats_read_kept {base x : Nat} : ∀ (beats : List Beat) {a skip : Nat} {p : ProfileStore},
    base ≤ a → p.stagingTable.wf = true →
      (∀ (i k : Nat) (b : Beat), beats[i]? = some b → k < 32 → copiesByte b (if i = 0 then skip else 0) k →
        x = a - base + 32 * i + k → 4096 ≤ x) →
      (p.copyBeats base (beatsFrom a skip beats)).stagingTable.read x = p.stagingTable.read x
  | [], _, _, _, _, _, _ => rfl
  | b :: beats, a, skip, p, hbase, hwf, h => by
    have hhead : (p.copyBeat base (a, skip, b)).stagingTable.read x = p.stagingTable.read x := by
      rw [ProfileStore.copyBeat_staging]
      exact (copyBytes_read (a - base) skip b x hwf 32).1 fun k hk hc hx => h 0 k b rfl hk hc hx
    have htail := ProfileStore.copyBeats_read_kept beats (base := base) (a := a + 32) (skip := 0)
      (p := p.copyBeat base (a, skip, b)) (by omega) (ProfileStore.copyBeat_wf base _ hwf).1
      fun i k b' hi hk hc hx => h (i + 1) k b' hi hk (by simpa using hc) (by omega)
    exact htail.trans hhead

/-- A byte that a beat copies reads as the beat has it (R73). -/
theorem ProfileStore.copyBeats_read_copied {base x : Nat} (hlow : x < 4096) :
    ∀ (beats : List Beat) {a skip : Nat} {p : ProfileStore}, base ≤ a → p.stagingTable.wf = true →
      ∀ (i k : Nat) (b : Beat), beats[i]? = some b → k < 32 → copiesByte b (if i = 0 then skip else 0) k →
        x = a - base + 32 * i + k →
        (p.copyBeats base (beatsFrom a skip beats)).stagingTable.read x = b.data.extractLsb' (8 * k) 8
  | [], _, _, _, _, _, i, _, _, hi, _, _, _ => by simp at hi
  | b :: beats, a, skip, p, hbase, hwf, 0, k, b', hi, hk, hc, hx => by
    obtain rfl : b = b' := by simpa using hi
    have hhead : (p.copyBeat base (a, skip, b)).stagingTable.read x = b.data.extractLsb' (8 * k) 8 := by
      rw [ProfileStore.copyBeat_staging]
      exact (copyBytes_read (a - base) skip b x hwf 32).2 k hk hc hx hlow
    have htail := ProfileStore.copyBeats_read_kept beats (base := base) (a := a + 32) (skip := 0) (x := x)
      (p := p.copyBeat base (a, skip, b)) (by omega) (ProfileStore.copyBeat_wf base _ hwf).1
      fun i' k' b'' _ _ _ hx' => by omega
    exact htail.trans hhead
  | b :: beats, a, skip, p, hbase, hwf, i + 1, k, b', hi, hk, hc, hx =>
    ProfileStore.copyBeats_read_copied hlow beats (base := base) (a := a + 32) (skip := 0) (p := p.copyBeat base (a, skip, b))
      (by omega) (ProfileStore.copyBeat_wf base _ hwf).1 i k b' hi hk (by simpa using hc) (by omega)

/-- The granules after the beats of a burst: one more for each beat whose 32 strobes it set (R74). -/
theorem ProfileStore.copyBeats_coverage {base g : Nat} (hg : g < 128) :
    ∀ (beats : List Beat) {a skip : Nat} {p : ProfileStore}, base ≤ a → (a - base) % 32 = 0 →
      ((p.copyBeats base (beatsFrom a skip beats)).coverage.getLsbD g = true ↔
        p.coverage.getLsbD g = true ∨ ∃ (i : Nat) (b : Beat), beats[i]? = some b ∧ b.strb = BitVec.allOnes 32 ∧
          (i = 0 → skip = 0) ∧ a - base + 32 * i = 32 * g)
  | [], _, _, _, _, _ => by simp [beatsFrom, ProfileStore.copyBeats]
  | b :: beats, a, skip, p, hbase, halign => by
    have htail := ProfileStore.copyBeats_coverage hg beats (base := base) (a := a + 32) (skip := 0)
      (p := p.copyBeat base (a, skip, b)) (by omega) (by omega)
    rw [show p.copyBeats base (beatsFrom a skip (b :: beats)) =
      (p.copyBeat base (a, skip, b)).copyBeats base (beatsFrom (a + 32) 0 beats) from rfl, htail,
      ProfileStore.copyBeat_coverage p base a skip b hg halign, or_assoc]
    refine or_congr_right ⟨fun h => ?_, fun ⟨i, b', hi, hstrb, hskip, hx⟩ => ?_⟩
    · obtain ⟨hstrb, hskip, hx⟩ | ⟨i, b', hi, hstrb, _, hx⟩ := h
      · exact ⟨0, b, rfl, hstrb, fun _ => hskip, hx⟩
      · exact ⟨i + 1, b', hi, hstrb, (fun h => nomatch h), by omega⟩
    · cases i with
      | zero =>
        obtain rfl : b = b' := by simpa using hi
        exact .inl ⟨hstrb, hskip rfl, hx⟩
      | succ i => exact .inr ⟨i, b', hi, hstrb, fun _ => rfl, by omega⟩

/-! ### The write -/

theorem State.captureProfile_of_pending {s : State} (base : Nat) (w : UpWrite) (h : s.psto.pendingSwap = true) :
    s.captureProfile base w = s.latch .profileWriteIgnored := if_pos h

theorem State.captureProfile_of_open {s : State} (base : Nat) (w : UpWrite) (h : s.psto.pendingSwap = false) :
    s.captureProfile base w = s.setPsto (s.psto.copyBeats base w.placed) := if_neg (by simp [h])

theorem State.captureProfile_pb (s : State) (base : Nat) (w : UpWrite) : (s.captureProfile base w).pb = s.pb :=
  changes_captureProfile (bs := [.psto, .evu]) base w (by decide) (by decide) (s.changesOnly_refl _) .pb (by decide)

theorem State.passHead_keeps (s : State) (w : UpWrite) :
    (s.passHead w).psto = s.psto ∧ (s.passHead w).evu = s.evu :=
  have h : s.changesOnly (s.passHead w) [.pb, .warb] :=
    changes_passHead w (by decide) (by decide) (s.changesOnly_refl _)
  ⟨h .psto (by decide), h .evu (by decide)⟩

/-- What follows the window's base is copied from the burst's first byte on. -/
theorem copies_iff_of_aligned {first base i k : Nat} (b : Beat) (hbase : base % 32 = 0) (hle : base ≤ first) :
    (copiesByte b (if i = 0 then first % 32 else 0) k ↔
      first ≤ first / 32 * 32 + 32 * i + k ∧ b.strb.getLsbD k = true) ∧
      first / 32 * 32 + 32 * i + k - base = first / 32 * 32 - base + 32 * i + k := by
  have hfirst := Nat.div_add_mod first 32
  refine ⟨and_congr_left fun _ => ?_, by omega⟩
  split <;> omega

/-- Settles O12: the beats of the burst by the lemmas on `ProfileStore.copyBeats`, and the write taken by `State.passHead`. -/
theorem profileWriteIsCopiedByStrobes : Obligations.ProfileWriteIsCopiedByStrobes := by
  intro dt base w s hpart hreset hempty hroom hroute hbase hle hwf
  obtain ⟨_, hstaging⟩ := Bool.and_eq_true_iff.mp hwf
  have hle' : base ≤ w.first / 32 * 32 := by omega
  let u := (s.presented dt w).captureProfile base w
  have hpresented := changes_presented s dt w
  have hpsto : (s.presented dt w).psto = s.psto := (hpresented .psto (by decide)).trans (s.begin_psto dt)
  have hupb : u.pb = { s.pb with channel := [w] } := by
    rw [State.captureProfile_pb, State.presented_pb dt w hempty]
  obtain ⟨hp, he⟩ := u.passHead_keeps w
  have hpending : s.psto.pendingSwap = true → u = (s.presented dt w).latch .profileWriteIgnored := fun h =>
    State.captureProfile_of_pending base w (by rwa [hpsto])
  have hopen : s.psto.pendingSwap = false → u.psto = s.psto.copyBeats base w.placed := fun h => by
    rw [show u = _ from State.captureProfile_of_open base w (by rwa [hpsto]), State.setPsto_psto, hpsto]
  obtain ⟨hactive, hhas, hswap, hout⟩ := ProfileStore.copyBeats_keeps base w.placed s.psto
  refine ⟨(u.passHead w).settle, ?_, ?_, ?_, fun h => ?_, fun h x => ?_, fun h => ?_, ?_⟩
  · rw [exec_upstreamWrite_once dt hpart hreset hempty hroom
      (State.reofferDue_of_unheld (by rw [hroute]; exact congrArg PortBridge.heldBy (u.passHead_pb w))), hroute]
    rfl
  · rw [State.settle_pb, State.passHead_pb, hupb]
  · rw [State.settle_psto, hp]
    cases h : s.psto.pendingSwap with
    | true => rw [hpending h, State.latch_psto, hpsto]
    | false => rw [hopen h, hactive]
  · rw [State.settle_psto, State.settle_evu, hp, he, hpending h, State.latch_psto, hpsto]
    exact ⟨rfl, EventUnit.latch_getLsbD _ _ _⟩
  · rw [State.settle_psto, hp, hopen h]
    refine ⟨fun hnone => ?_, fun i k b hi hk hstrb hx hin hlow => ?_⟩
    · refine ProfileStore.copyBeats_read_kept w.beats hle' hstaging fun i k b hi hk hc hx => ?_
      obtain ⟨hiff, hadd⟩ := copies_iff_of_aligned (i := i) (k := k) b hbase hle
      obtain ⟨hin, hstrb⟩ := hiff.mp hc
      exact hnone i k b hi hk hstrb (by rw [hadd, hx]) hin
    · obtain ⟨hiff, hadd⟩ := copies_iff_of_aligned (i := i) (k := k) b hbase hle
      exact ProfileStore.copyBeats_read_copied hlow w.beats hle' hstaging i k b hi hk (hiff.mpr ⟨hin, hstrb⟩)
        (by rw [hx, hadd])
  · rw [State.settle_psto, hp, hopen h]
    refine ⟨hhas, hswap.trans h, hout, fun g hg => ?_⟩
    refine (ProfileStore.copyBeats_coverage hg w.beats hle' (by omega)).trans (or_congr_right ?_)
    refine exists_congr fun i => exists_congr fun b => and_congr_right fun _ => and_congr_right fun _ =>
      and_congr_right fun _ => ?_
    omega
  · exact changes_settle (by decide) (by decide) (by decide) (changes_passHead w (by decide) (by decide)
      (changes_captureProfile base w (by decide) (by decide) (State.changesOnly_mono hpresented (by decide))))

end Sys2Proof.Machine
end

section
/-! PROOFS. A planned band keeps its record while planning goes on (R94, R96): the cursor only moves onward, and a band is
completed at the cursor. So the band of a deferral that waits out keeps the record of its waiting out (R52, R110). -/

namespace Sys2Proof.Machine

/-! ### What answering a request leaves alone -/

theorem changes_obtainBand_only {s : State} (c : Ctx) (id : Nat) (r : BandRecord) :
    s.changesOnly (s.obtainBand c id r) [.ctx0, .ctx1, .stall0, .stall1, .evu, .warb] := by
  unfold State.obtainBand; split
  · exact State.changesOnly_refl _ _
  · exact changes_tryEmit _ (by decide) (changes_latchIf _ _ (by decide)
      (changes_setCtx c _ (by cases c <;> decide) (by cases c <;> decide) (State.changesOnly_refl _ _)))

/-- Answering a request leaves the epoch table and the plan cursor alone. -/
theorem State.answer_keeps (s : State) (c : Ctx) (id : Nat) (r : BandRecord) :
    (s.answer c id r).mept = s.mept ∧ (s.answer c id r).bpln.cursor = s.bpln.cursor := by
  unfold State.answer; split
  · have h := changes_obtainBand_only (s := s.setBpln { s.bpln with requests := s.bpln.requests.set c none }) c id r
    exact ⟨h .mept (by decide), (congrArg Planner.cursor (h .bpln (by decide)) :)⟩
  · exact ⟨rfl, rfl⟩

/-- The entry with slot `b` written. -/
def EpochEntry.withSlot (e : EpochEntry) (b : Nat) (x : Option BandRecord) : EpochEntry :=
  { e with slots := e.slots.set b x }

/-- The band that is completed: its record enters its slot, and the cursor moves behind it (R94, R96). -/
theorem State.finishBand_slot (s : State) (e : EpochEntry) (b : Nat) (tb : Time) (est : Option Estimate) (d w : Bool) :
    (s.finishBand e b tb est d w).mept =
        s.mept.update e.id (fun e => EpochEntry.withSlot e b (some (s.planBand b tb est d w).record)) ∧
      (s.finishBand e b tb est d w).bpln.cursor = cursorAfter s.mept.entries e b := by
  unfold State.finishBand
  dsimp only
  rw [(State.answer_keeps _ _ _ _).1, (State.answer_keeps _ _ _ _).2, (State.answer_keeps _ _ _ _).1,
    (State.answer_keeps _ _ _ _).2]
  exact ⟨State.latchIf_mept _ _ _, congrArg Planner.cursor (State.latchIf_bpln _ _ _)⟩

theorem State.beginBand_keeps (s : State) (b : Nat) :
    (s.beginBand b).mept = s.mept ∧ (s.beginBand b).bpln.cursor = s.bpln.cursor := by
  unfold State.beginBand
  dsimp only
  split <;> exact ⟨rfl, rfl⟩

theorem State.resumeWaiters_keeps (s : State) : s.resumeWaiters.mept = s.mept :=
  changes_resumeWaiters (bs := settleBlocks) (by decide) (by decide) (s.changesOnly_refl _) .mept (by decide)

/-! ### The records of an epoch table -/

theorem EpochTable.find_id {m : EpochTable} {id : Nat} {e : EpochEntry} (h : m.find id = some e) : e.id = id := by
  simpa using List.find?_some h

/-- The entry of a name after an update that keeps every name. -/
theorem EpochTable.find_update (m : EpochTable) (id i : Nat) {f : EpochEntry → EpochEntry} (hf : ∀ e, (f e).id = e.id) :
    (m.update id f).find i = (m.find i).map fun e => if e.id = id then f e else e := by
  unfold EpochTable.find EpochTable.update
  rw [List.find?_map]
  congr 1
  refine congrArg (fun p => m.entries.find? p) (funext fun e => ?_)
  show decide ((if e.id = id then f e else e).id = i) = decide (e.id = i)
  split
  · rw [hf]
  · rfl

/-- Writing another band's slot leaves a record as it was. -/
theorem EpochTable.recordAt_update_other (m : EpochTable) {id i b b' : Nat} (x : Option BandRecord)
    (h : i ≠ id ∨ b ≠ b') :
    (m.update id fun e => EpochEntry.withSlot e b' x).recordAt i b = m.recordAt i b := by
  rw [EpochTable.recordAt, EpochTable.recordAt,
    EpochTable.find_update m id i (f := fun e => EpochEntry.withSlot e b' x) (fun _ => rfl)]
  cases hfind : m.find i with
  | none => rfl
  | some e =>
    have hid := EpochTable.find_id hfind
    show ((if e.id = id then EpochEntry.withSlot e b' x else e).slots[b]?).join = _
    split
    · next hei =>
      have hb : b' ≠ b := fun hbb => h.elim (fun hne => hne (hid.symm.trans hei)) fun hne => hne hbb.symm
      show ((e.slots.set b' x)[b]?).join = _
      rw [List.getElem?_set_ne hb]
    · rfl

/-- Writing a band's slot of a held entry leaves the record there. -/
theorem EpochTable.recordAt_update_self {m : EpochTable} {id b : Nat} {e : EpochEntry} (r : BandRecord)
    (hfind : m.find id = some e) (hb : b < e.slots.length) :
    (m.update id fun e => EpochEntry.withSlot e b (some r)).recordAt id b = some r := by
  rw [EpochTable.recordAt,
    EpochTable.find_update m id id (f := fun e => EpochEntry.withSlot e b (some r)) (fun _ => rfl), hfind]
  show ((if e.id = id then EpochEntry.withSlot e b (some r) else e).slots[b]?).join = _
  rw [if_pos (EpochTable.find_id hfind)]
  show ((e.slots.set b (some r))[b]?).join = _
  rw [List.getElem?_set_self hb]
  rfl

/-! ### The cursor moves onward -/

/-- The cursor stands behind band `b` of entry `id`, or nowhere (R94). -/
def Planner.past (p : Planner) (id b : Nat) : Prop :=
  ∀ i k, p.cursor = some (i, k) → id < i ∨ i = id ∧ b < k

/-- The cursor after a band stands behind it (R94 (2)). -/
theorem cursorAfter_past {es : List EpochEntry} {e : EpochEntry} {b i k : Nat} (h : cursorAfter es e b = some (i, k)) :
    e.id < i ∨ i = e.id ∧ b < k := by
  unfold cursorAfter at h
  split at h
  · cases h; exact .inr ⟨rfl, Nat.lt_succ_self b⟩
  · obtain ⟨j, hj, heq⟩ := Option.map_eq_some_iff.mp h
    cases heq
    obtain ⟨e', he', rfl⟩ := Option.map_eq_some_iff.mp hj
    exact .inl (by simpa using List.find?_some he')

/-- Band `b` of entry `id` has record `r`, and the cursor stands behind it. -/
structure State.Planned (s : State) (id b : Nat) (r : BandRecord) : Prop where
  record : s.mept.recordAt id b = some r
  past : s.bpln.past id b

/-- Completing a band behind a planned one keeps the planned record, and the cursor behind it. -/
theorem planned_finishBand {s : State} {id b : Nat} {r : BandRecord} (e : EpochEntry) (b' : Nat) (tb : Time)
    (est : Option Estimate) (d w : Bool) (h : s.Planned id b r) (hpast : id < e.id ∨ e.id = id ∧ b < b') :
    (s.finishBand e b' tb est d w).Planned id b r where
  record := by
    rw [(s.finishBand_slot e b' tb est d w).1, EpochTable.recordAt_update_other _ _ (by omega)]
    exact h.record
  past i k hcursor := by
    rw [(s.finishBand_slot e b' tb est d w).2] at hcursor
    have := cursorAfter_past hcursor
    omega

theorem planned_planOne {s : State} {id b : Nat} {r : BandRecord} (e : EpochEntry) (b' : Nat) (h : s.Planned id b r)
    (hpast : id < e.id ∨ e.id = id ∧ b < b') : (s.planOne e b').Planned id b r := by
  obtain ⟨hmept, hcursor⟩ := s.beginBand_keeps b'
  have hbegun : (s.beginBand b').Planned id b r :=
    ⟨by rw [hmept]; exact h.record, fun i k hik => h.past i k (hcursor ▸ hik)⟩
  unfold State.planOne State.askBand
  dsimp only
  split
  · split
    · exact planned_finishBand e b' _ _ _ _ hbegun hpast
    · split
      · refine planned_finishBand e b' _ _ _ _ ⟨?_, ?_⟩ hpast
        · rw [State.resumeWaiters_keeps]; exact hbegun.record
        · rw [show (s.beginBand b').resumeWaiters.bpln = (s.beginBand b').bpln from
            changes_resumeWaiters (bs := settleBlocks) (by decide) (by decide) (State.changesOnly_refl _ _) .bpln
              (by decide)]
          exact hbegun.past
      · exact ⟨hbegun.record, hbegun.past⟩
  · exact planned_finishBand e b' _ _ _ _ hbegun hpast

/-- Planning keeps the record of a band that the cursor has passed (R94, R96). -/
theorem planned_planRun {id b : Nat} {r : BandRecord} : ∀ (n : Nat) {s : State}, s.Planned id b r →
    (planRun n s).Planned id b r
  | 0, _, h => h
  | n + 1, s, h => by
    unfold planRun
    split
    · split
      · exact h
      · next i k hcursor =>
        split
        · exact h
        · next e he =>
          refine planned_planRun n (planned_planOne e k h ?_)
          rw [EpochTable.find_id he]
          exact h.past i k hcursor
    · exact h

/-! ### The deferral that waits out (R52, R110) -/

theorem exec_deferralWaitOut (dt : Nat) (s : State) :
    exec (.deferralWaitOut dt) s =
      .next (if (s.begin dt).waitDue then (s.begin dt).waitOut.settle else s.begin dt) := rfl

/-- The record of a band completed with an estimate (R104, R110). -/
theorem State.planBand_record (s : State) (b : Nat) (tb : Time) (est : Estimate) (d w : Bool) :
    (s.planBand b tb (some est) d w).record.band = b ∧ (s.planBand b tb (some est) d w).record.time = tb ∧
      (s.planBand b tb (some est) d w).record.deferred = d ∧ (s.planBand b tb (some est) d w).record.waitedOut = w ∧
      (s.planBand b tb (some est) d w).record.estimate = some est.focus ∧
      (s.planBand b tb (some est) d w).record.kind = if s.psto.hasActive then est.kind else .noProfile := by
  unfold State.planBand
  split <;> exact ⟨rfl, rfl, rfl, rfl, rfl, rfl⟩

/-- The band of deferral `d`, of entry `e`, completed as the deferral waits out (R52, R110). -/
def State.completeWaited (s : State) (e : EpochEntry) (d : Deferral) : State :=
  s.finishBand e d.band d.time (some (waitedOutEstimate s.fest s.ptrk d.time)) true true

/-- The record of that band (R104, R110). -/
def State.waitedRecord (s : State) (d : Deferral) : BandRecord :=
  (s.planBand d.band d.time (some (waitedOutEstimate s.fest s.ptrk d.time)) true true).record

/-- The end of a deferral completes its band, and planning resumes (R97). -/
theorem State.waitOut_eq {s : State} {d : Deferral} {e : EpochEntry} (hdef : s.bpln.deferral = some d)
    (hfind : s.mept.find d.entry = some e) : s.waitOut = (s.completeWaited e d).plan := by
  rw [State.waitOut, hdef]
  show s.endDeferral _ true = _
  rw [State.endDeferral, hdef]
  show (match s.mept.find d.entry with | none => s | some e => _) = _
  rw [hfind]
  rfl

theorem State.completeWaited_event (s : State) (e : EpochEntry) (d : Deferral) :
    (s.completeWaited e d).has .planWaitedOut := by
  unfold State.completeWaited State.finishBand
  exact Inners.keeps_event .planWaitedOut (inners_answer _ _ _ (inners_answer _ _ _ (inners_refl _)))
    (State.has_latch _ .planWaitedOut)

/-- The band is planned, and the cursor stands behind it (R94, R96). -/
theorem State.completeWaited_planned {s : State} {e : EpochEntry} {d : Deferral} (hfind : s.mept.find d.entry = some e)
    (hband : d.band < e.slots.length) : (s.completeWaited e d).Planned d.entry d.band (s.waitedRecord d) := by
  obtain ⟨hmept, hcursor⟩ := s.finishBand_slot e d.band d.time
    (some (waitedOutEstimate s.fest s.ptrk d.time)) true true
  have hid := EpochTable.find_id hfind
  refine ⟨?_, fun i k hik => ?_⟩
  · rw [State.completeWaited, hmept, hid]
    exact EpochTable.recordAt_update_self _ hfind hband
  · rw [← hid]
    exact cursorAfter_past (hcursor.symm.trans hik)

/-- Settles O25: the band is completed by the deferral's end, and keeps its record by `planned_planRun`. -/
theorem waitedOutBandIsExtrapolated : Obligations.WaitedOutBandIsExtrapolated := by
  intro dt d e s hpart hdef hfind hband hwait
  have hdue : (s.begin dt).waitDue = true := by
    simp only [State.waitDue, State.begin_bpln, hdef, State.begin_fest, State.begin_time, if_neg hpart, decide_eq_true_eq]
    exact hwait
  have hfind' : (s.begin dt).mept.find d.entry = some e := by rw [State.begin_mept, hfind]
  have hwaitOut : (s.begin dt).waitOut = ((s.begin dt).completeWaited e d).plan :=
    State.waitOut_eq (by rw [State.begin_bpln, hdef]) hfind'
  obtain ⟨hb, ht, hd, hw, hest, hkind⟩ := (s.begin dt).planBand_record d.band d.time
    (waitedOutEstimate (s.begin dt).fest (s.begin dt).ptrk d.time) true true
  refine ⟨(s.begin dt).waitOut.settle, (s.begin dt).waitedRecord d, by rw [exec_deferralWaitOut, if_pos hdue], ?_, hb,
    ht, hd, hw, ?_, ?_, ?_, ?_⟩
  · rw [State.settle_mept, hwaitOut]
    exact (planned_planRun _ (State.completeWaited_planned hfind' hband)).record
  · rw [State.waitedRecord, hest, waitedOutEstimate, State.begin_fest, State.begin_ptrk]
  · rw [State.waitedRecord, hkind, waitedOutEstimate, State.begin_psto]
  · refine State.has_settle (e := .planWaitedOut) ?_
    rw [hwaitOut]
    exact Inners.keeps_event _ (inners_plan (inners_refl _)) ((s.begin dt).completeWaited_event e d)
  · exact changes_settle (by decide) (by decide) (by decide)
      (State.changesOnly_mono (changes_waitOut (State.changesOnly_refl _ _)) (by decide))

end Sys2Proof.Machine
end

section
/-! PROOFS. Writes that a context takes (R11, R139, R140): the rows that a write's beats leave in line memory, what an
accepted and an intercepted write leave, and the head offered again. -/

namespace Sys2Proof.Machine

/-! ### Beats in line memory (R139, R140) -/

theorem appendLast_flatten (ps : List Pixel) : ∀ held : List (List Pixel),
    (appendLast ps held).flatten = held.flatten ++ ps
  | [] => by simp [appendLast]
  | [r] => by simp [appendLast]
  | r :: r' :: rest => by
    rw [show appendLast ps (r :: r' :: rest) = r :: appendLast ps (r' :: rest) from rfl, List.flatten_cons,
      appendLast_flatten ps (r' :: rest), List.flatten_cons (l := r), List.append_assoc]

/-- The held rows after a beat (R139, R140). -/
theorem Frame.store_held (width : Nat) (f : Frame) (b : Beat) :
    (f.store width b).held =
      if f.nextRow < f.low then f.held
      else if f.low + f.held.length ≤ f.nextRow then f.held ++ [beatPixels b.data]
      else appendLast (beatPixels b.data) f.held := by
  unfold Frame.store; dsimp only; split <;> rfl

theorem Frame.store_low (width : Nat) (f : Frame) (b : Beat) : (f.store width b).low = f.low := by
  unfold Frame.store; dsimp only; split <;> rfl

/-- The place of the next beat (R139). -/
theorem Frame.store_next (width : Nat) (f : Frame) (b : Beat) :
    (width ≤ f.nextX + 4 → (f.store width b).nextRow = f.nextRow + 1 ∧ (f.store width b).nextX = 0) ∧
      (f.nextX + 4 < width → (f.store width b).nextRow = f.nextRow ∧ (f.store width b).nextX = f.nextX + 4) := by
  unfold Frame.store; dsimp only
  refine ⟨fun h => by rw [if_pos h]; exact ⟨rfl, rfl⟩, fun h => by rw [if_neg (by omega)]; exact ⟨rfl, rfl⟩⟩

theorem Frame.store_nextRow_ge (width : Nat) (f : Frame) (b : Beat) : f.nextRow ≤ (f.store width b).nextRow := by
  obtain ⟨hend, hin⟩ := f.store_next width b
  by_cases h : width ≤ f.nextX + 4
  · rw [(hend h).1]; omega
  · rw [(hin (by omega)).1]

/-- The beats of a write join the held pixels in their order (R139). -/
theorem Frame.storeAll_flatten (width : Nat) : ∀ (bs : List Beat) {f : Frame}, f.low ≤ f.nextRow →
    (f.storeAll width bs).held.flatten = f.held.flatten ++ bs.flatMap fun b => beatPixels b.data
  | [], _, _ => by simp [Frame.storeAll]
  | b :: bs, f, h => by
    have hone : (f.store width b).held.flatten = f.held.flatten ++ beatPixels b.data := by
      rw [Frame.store_held, if_neg (by omega)]
      split
      · simp
      · exact appendLast_flatten _ _
    have hrest := Frame.storeAll_flatten width bs (f := f.store width b)
      (by rw [Frame.store_low]; exact h.trans (f.store_nextRow_ge width b))
    rw [show f.storeAll width (b :: bs) = (f.store width b).storeAll width bs from rfl, hrest, hone, List.flatMap_cons,
      List.append_assoc]

/-! ### The write accepted (R140, R149) -/

/-- The frame after an accepted write holds its beats; its stall timer is restarted or stopped. -/
theorem Context.accept_frame {x : Context} {f : Frame} (w : UpWrite) (now : Time) (hf : x.frame = some f) :
    ∃ stall, (x.accept w now).frame = some { f.storeAll x.settings.width w.beats with stall := stall } := by
  rw [Context.accept, hf]
  dsimp only
  split
  · exact ⟨none, rfl⟩
  · exact ⟨some now, rfl⟩

@[simp] theorem State.ctx_tryEmit (s : State) (c d : Ctx) : (s.tryEmit c).ctx d = s.ctx d := by
  unfold State.tryEmit; split
  · split
    · exact State.ctx_requestRow _ _ _ _ _ _
    · rfl
  · rfl

theorem State.acceptWrite_ctx (s : State) (c : Ctx) (w : UpWrite) :
    (s.acceptWrite c w).ctx c = (s.ctx c).accept w s.time := by
  rw [State.acceptWrite, State.ctx_tryEmit, State.ctx_setCtx_self]

theorem State.acceptWrite_changes (s : State) (c : Ctx) (w : UpWrite) :
    s.changesOnly (s.acceptWrite c w) [.ctx0, .ctx1, .stall0, .stall1, .warb] :=
  changes_tryEmit c (by decide) (changes_setCtx c _ (by cases c <;> decide) (by cases c <;> decide)
    (s.changesOnly_refl _))

/-! ### The write intercepted (R11, R12) -/

theorem popResponses_ctx : ∀ (l : List RespEntry) (t : State) (c : Ctx),
    (Sys2Proof.Machine.popResponses t l).ctx c = t.ctx c
  | [], _, _ => rfl
  | x :: l, t, c => by
    unfold Sys2Proof.Machine.popResponses
    split
    · exact popResponses_ctx l _ c
    · rfl

theorem State.interceptHead_ctx (s : State) (w : UpWrite) (c : Ctx) : (s.interceptHead w).ctx c = s.ctx c :=
  popResponses_ctx _ _ c

/-- The head leaves the channel, and the complete entries at the head of the response queue leave with it (R12). -/
theorem State.interceptHead_spec (s : State) (w : UpWrite) :
    ∃ left, left <:+ s.pb.responses ++ [⟨.intercepted, w, false, some .okay⟩] ∧
      (s.interceptHead w).pb = { s.pb with channel := s.pb.channel.tail, heldBy := none, responses := left } := by
  obtain ⟨_, left, hleft, hpb, _⟩ := popResponses_pops (s.pb.responses ++ [⟨.intercepted, w, false, some .okay⟩])
    (s.dropHead.appendResponse ⟨.intercepted, w, false, some .okay⟩)
  exact ⟨left, hleft, hpb⟩

/-- On an empty response queue the write is answered OKAY (R12). -/
theorem State.interceptHead_of_empty {s : State} (w : UpWrite) (h : s.pb.responses = []) :
    (s.interceptHead w).pb = { s.pb with channel := s.pb.channel.tail, heldBy := none, responses := [] } ∧
      (s.interceptHead w).outputs = s.outputs ++ [.writeResponse w.tag .okay] := by
  have hqueue : (s.dropHead.appendResponse ⟨.intercepted, w, false, some .okay⟩).pb.responses =
      [⟨.intercepted, w, false, some .okay⟩] := congrArg (fun l => l ++ [_]) h
  rw [State.interceptHead, State.popResponses, hqueue]
  exact ⟨rfl, rfl⟩

/-! ### The head offered again (R11, R140, R146) -/

/-- A head that its context holds back, in a state that is not to be offered at once. -/
theorem State.offerHead_of_hold {s : State} {w : UpWrite} {rest : List UpWrite} {c : Ctx} {a : FrameArea}
    (hchannel : s.pb.channel = w :: rest) (hopen : s.writeBlocked = false) (hroute : s.route w = .offered c a)
    (hoffer : s.offer c a w = (.hold, s)) (hstate : (s.ctx c).state.resting = false) :
    s.offerHead = s.holdHead c := by
  have htake : s.takeAlong w (s.route w) = s.holdHead c := by
    rw [hroute, State.takeAlong, hoffer]
  rw [State.offerHead_of_head hchannel hopen
    (by rw [htake]; exact State.reofferDue_of_held (s := s.holdHead c) rfl hstate), htake]

/-- A head held back stays, and its context's stall timer stops with it. -/
theorem State.holdHead_spec {s : State} (dt : Nat) (c : Ctx) :
    ((s.begin dt).holdHead c).settle.pb = { s.pb with heldBy := some c } ∧
      (s.begin dt).changesOnly ((s.begin dt).holdHead c).settle [.pb, .stall0, .stall1, .grant] := by
  refine ⟨?_, changes_settle (by decide) (by decide) (by decide)
    (changes_setPb _ (by decide) (State.changesOnly_refl _ _))⟩
  rw [State.settle_pb, State.holdHead, State.setPb_pb, State.begin_pb]

theorem State.offerRunning_of_fits {s : State} {c : Ctx} {a : FrameArea} {w : UpWrite} {f : Frame}
    (hf : (s.ctx c).frame = some f) (hseq : f.inSequence a w false = true)
    (hfits : f.fits (a.rowsTouched w.first w.last) (s.ctx c).depth = true) :
    s.offerRunning c a w = (.accept, (s.acceptWrite c w).finishIfComplete c) := by
  rw [State.offerRunning, hf]
  simp only [hseq, hfits, if_true]

theorem State.offerRunning_of_full {s : State} {c : Ctx} {a : FrameArea} {w : UpWrite} {f : Frame}
    (hf : (s.ctx c).frame = some f) (hseq : f.inSequence a w false = true)
    (hfits : f.fits (a.rowsTouched w.first w.last) (s.ctx c).depth = false) :
    s.offerRunning c a w = (.hold, s) := by
  rw [State.offerRunning, hf]
  simp only [hseq, hfits, if_true, Bool.false_eq_true, if_false]

theorem State.offer_of_running {s : State} {c : Ctx} (a : FrameArea) (w : UpWrite) (h : (s.ctx c).state = .running) :
    s.offer c a w = s.offerRunning c a w := by
  rw [State.offer, h]

theorem State.offer_of_busy {s : State} {c : Ctx} {a : FrameArea} {w : UpWrite} (hstart : w.first = a.base)
    (h : (s.ctx c).state = .finishing ∨ (s.ctx c).state = .aborting) : s.offer c a w = (.hold, s) := by
  have hbusy : s.offerBusy c a w = (.hold, s) := if_pos hstart
  obtain h | h := h <;> rw [State.offer, h] <;> exact hbusy

/-- The state after context `c` has accepted the head and the frame has ended if it is complete. -/
def State.acceptedHead (s : State) (c : Ctx) (w : UpWrite) : State :=
  ((s.acceptWrite c w).finishIfComplete c).interceptHead w

theorem State.acceptedHead_pb (s : State) (c : Ctx) (w : UpWrite) :
    (s.acceptedHead c w).pb.channel = s.pb.channel.tail ∧ (s.acceptedHead c w).pb.heldBy = none ∧
      (s.acceptedHead c w).pb.responses <:+ s.pb.responses ++ [⟨.intercepted, w, false, some .okay⟩] ∧
      (s.pb.responses = [] →
        (s.acceptedHead c w).outputs.getLast? = some (.writeResponse w.tag .okay)) := by
  have hpb : ((s.acceptWrite c w).finishIfComplete c).pb =
      { s.pb with
        reads := ((s.acceptWrite c w).finishIfComplete c).pb.reads
        holds := ((s.acceptWrite c w).finishIfComplete c).pb.holds } := by
    rw [leaves_finishIfComplete.pb, show (s.acceptWrite c w).pb = s.pb from s.acceptWrite_changes c w .pb (by decide)]
  obtain ⟨left, hleft, hafter⟩ := ((s.acceptWrite c w).finishIfComplete c).interceptHead_spec w
  have hresp : ((s.acceptWrite c w).finishIfComplete c).pb.responses = s.pb.responses :=
    (congrArg PortBridge.responses hpb :)
  refine ⟨?_, ?_, ?_, fun hempty => ?_⟩
  · exact (congrArg PortBridge.channel hafter).trans ((congrArg (fun p : PortBridge => p.channel.tail) hpb :))
  · exact congrArg PortBridge.heldBy hafter
  · rw [State.acceptedHead, hafter, ← hresp]; exact hleft
  · rw [State.acceptedHead, (State.interceptHead_of_empty w (hresp.trans hempty)).2]
    exact List.getLast?_concat ..

/-- The held pixels of the frame after the head is accepted (R139). -/
theorem State.acceptedHead_held {s : State} {c : Ctx} {w : UpWrite} {f g : Frame} (hf : (s.ctx c).frame = some f)
    (hlow : f.low ≤ f.nextRow) (hg : ((s.acceptedHead c w).settle.ctx c).frame = some g) :
    g.held.flatten = f.held.flatten ++ w.beats.flatMap fun b => beatPixels b.data := by
  obtain ⟨g', hg', rfl⟩ := State.settle_frame hg
  rw [State.acceptedHead, State.interceptHead_ctx] at hg'
  obtain ⟨hon, hend⟩ := (s.acceptWrite c w).finishIfComplete_ctx c
  by_cases hdone : ((s.acceptWrite c w).ctx c).completes = none
  · rw [hon hdone, State.acceptWrite_ctx] at hg'
    obtain ⟨stall, hstored⟩ := Context.accept_frame w s.time hf
    rw [hstored] at hg'
    cases hg'
    exact Frame.storeAll_flatten _ _ hlow
  · obtain ⟨hnone, _⟩ := (hend hdone).1
    rw [hnone] at hg'; cases hg'

/-- Settles O14: a head that passes by `State.passHead`, one in sequence by the frame that accepts or holds it, and a frame
start by the context that holds it back. -/
theorem reofferedHeadIsTakenOrStaysHeld : Obligations.ReofferedHeadIsTakenOrStaysHeld := by
  intro dt w rest s hpart hreset hchannel hroom
  have hch : (s.begin dt).pb.channel = w :: rest := by rw [State.begin_pb, hchannel]
  have hopen : (s.begin dt).writeBlocked = false :=
    State.writeBlocked_eq_false (by rwa [State.begin_stl]) (by rwa [State.begin_stl]) (by rwa [State.begin_pb])
  refine ⟨fun hroute => ?_, fun c a f hroute hrun hf hseq => ⟨fun hfits => ?_, fun hfull => ?_⟩,
    fun c a hroute hstart hstate => ?_⟩
  · rw [← State.begin_route s dt] at hroute
    have hpb := (s.begin dt).passHead_pb w
    refine ⟨((s.begin dt).passHead w).settle, ?_, ?_, ?_⟩
    · rw [exec_heldWriteReoffered, State.offerHead_of_head hch hopen
        (State.reofferDue_of_unheld (by rw [hroute]; exact congrArg PortBridge.heldBy hpb)), hroute]
      rfl
    · rw [State.settle_pb, hpb, hch, State.begin_pb]; rfl
    · exact changes_settle (by decide) (by decide) (by decide)
        (changes_passHead w (by decide) (by decide) (State.changesOnly_refl _ _))
  · rw [← State.begin_route s dt] at hroute
    rw [← State.ctx_begin s dt] at hrun hf hfits
    have htake : (s.begin dt).takeAlong w ((s.begin dt).route w) = (s.begin dt).acceptedHead c w := by
      rw [hroute, State.takeAlong, State.offer_of_running a w hrun, State.offerRunning_of_fits hf hseq hfits]; rfl
    obtain ⟨hleave, hheld, hresp, hanswer⟩ := (s.begin dt).acceptedHead_pb c w
    refine ⟨((s.begin dt).acceptedHead c w).settle, ?_, ?_, ?_, ?_, fun hempty => ?_, fun hlow g hg => ?_, ?_⟩
    · rw [exec_heldWriteReoffered, State.offerHead_of_head hch hopen
        (State.reofferDue_of_unheld (by rw [htake, hheld])), htake]
    · rw [State.settle_pb, hleave, hch]; rfl
    · rw [State.settle_pb, hheld]
    · rw [State.settle_pb]; rwa [State.begin_pb] at hresp
    · rw [State.settle_outputs]; exact hanswer (by rwa [State.begin_pb])
    · exact State.acceptedHead_held hf hlow hg
    · refine changes_settle (by decide) (by decide) (by decide) (changes_interceptHead w (by decide) (by decide) ?_)
      have haccept := State.changesOnly_mono (cs := frameBlocks) ((s.begin dt).acceptWrite_changes c w) (by decide)
      exact State.changesOnly_mono (changes_finishIfComplete c haccept) (by decide)
  · rw [← State.begin_route s dt] at hroute
    rw [← State.ctx_begin s dt] at hrun hf hfull
    refine ⟨((s.begin dt).holdHead c).settle, ?_, s.holdHead_spec dt c⟩
    rw [exec_heldWriteReoffered, State.offerHead_of_hold hch hopen hroute
      (by rw [State.offer_of_running a w hrun, State.offerRunning_of_full hf hseq hfull]) (by rw [hrun]; rfl)]
  · rw [← State.begin_route s dt] at hroute
    rw [← State.ctx_begin s dt] at hstate
    refine ⟨((s.begin dt).holdHead c).settle, ?_, s.holdHead_spec dt c⟩
    rw [exec_heldWriteReoffered, State.offerHead_of_hold hch hopen hroute (State.offer_of_busy hstart hstate)
      (by obtain h | h := hstate <;> rw [h] <;> rfl)]

end Sys2Proof.Machine
end

section
/-! PROOFS. The start of a frame (R63, R135, R139): the entry that is bound, the rows that the first write leaves in line
memory, and the answer to the write. -/

namespace Sys2Proof.Machine

/-! ### The raster of a frame from its start (R139) -/

theorem appendLast_lengths (ps : List Pixel) : ∀ {held : List (List Pixel)} {ns : List Nat} {n : Nat},
    held.map List.length = ns ++ [n] → (appendLast ps held).map List.length = ns ++ [n + ps.length]
  | [], ns, n, h => by simp at h
  | [r], ns, n, h => by
    obtain ⟨rfl, hn⟩ : ns = [] ∧ r.length = n := by cases ns <;> simp_all
    simp [appendLast, hn]
  | r :: r' :: rest, ns, n, h => by
    cases ns with
    | nil => simp at h
    | cons m ns =>
      obtain ⟨hm, htail⟩ := List.cons.inj h
      have ih := appendLast_lengths ps (held := r' :: rest) htail
      show r.length :: (appendLast ps (r' :: rest)).map List.length = _
      rw [ih, hm]; rfl

/-- After `n` beats of a frame of width `width` from its start: the place of the next beat, and the lengths of the rows. -/
structure Frame.Raster (width n : Nat) (f : Frame) : Prop where
  low : f.low = 0
  place : f.nextRow * width + f.nextX = 4 * n
  aligned : f.nextX % 4 = 0
  inRow : f.nextX < width
  rows : f.held.map List.length = List.replicate f.nextRow width ++ if f.nextX = 0 then [] else [f.nextX]

theorem Frame.Raster.held_length {width n : Nat} {f : Frame} (h : f.Raster width n) :
    f.held.length = f.nextRow + if f.nextX = 0 then 0 else 1 := by
  have := congrArg List.length h.rows
  rw [List.length_map, List.length_append, List.length_replicate] at this
  rw [this]
  split <;> rfl

/-- The lengths of the rows once a beat has entered them. -/
theorem Frame.Raster.store_rows {width n : Nat} {f : Frame} (h : f.Raster width n) (b : Beat) :
    (f.store width b).held.map List.length = List.replicate f.nextRow width ++ [f.nextX + 4] := by
  have hlength := h.held_length
  have hrows := h.rows
  rw [Frame.store_held, if_neg (by rw [h.low]; omega), h.low, hlength]
  by_cases hx : f.nextX = 0
  · rw [if_pos hx] at hrows
    rw [if_pos (by rw [if_pos hx]; omega), List.map_append, hrows, hx]
    simp [beatPixels]
  · rw [if_neg hx] at hrows
    rw [if_neg (by rw [if_neg hx]; omega)]
    exact appendLast_lengths _ hrows

/-- A beat enters at the place of the raster (R139). -/
theorem Frame.Raster.store {width n : Nat} {f : Frame} (hwidth : width % 4 = 0) (h : f.Raster width n) (b : Beat) :
    (f.store width b).Raster width (n + 1) := by
  obtain ⟨hend, hin⟩ := f.store_next width b
  have hrows := h.store_rows b
  have hplace := h.place
  have haligned := h.aligned
  have hinRow := h.inRow
  by_cases hx : width ≤ f.nextX + 4
  · obtain ⟨hrow, hcol⟩ := hend hx
    have hfull : f.nextX + 4 = width := by omega
    refine ⟨(f.store_low width b).trans h.low, ?_, by omega, by omega, ?_⟩
    · rw [hrow, hcol, Nat.succ_mul]; omega
    · rw [hrows, hrow, hcol, if_pos rfl, hfull, List.append_nil, List.replicate_succ']
  · obtain ⟨hrow, hcol⟩ := hin (by omega)
    refine ⟨(f.store_low width b).trans h.low, by rw [hrow, hcol]; omega, by omega, by omega, ?_⟩
    rw [hrows, hrow, hcol, if_neg (by omega)]

theorem Frame.Raster.storeAll {width : Nat} (hwidth : width % 4 = 0) : ∀ (bs : List Beat) {n : Nat} {f : Frame},
    f.Raster width n → (f.storeAll width bs).Raster width (n + bs.length)
  | [], _, _, h => h
  | b :: bs, n, f, h => by
    rw [List.length_cons, show n + (bs.length + 1) = n + 1 + bs.length by omega]
    exact Frame.Raster.storeAll hwidth bs (h.store hwidth b)

theorem Frame.fresh_raster {width : Nat} (id : Nat) (e : Option EpochEntry) (h : 0 < width) :
    (Frame.fresh id e).Raster width 0 :=
  ⟨rfl, by simp [Frame.fresh], rfl, h, rfl⟩

/-- Every row below the next one is held whole (R140). -/
theorem Frame.Raster.row_whole {width n k : Nat} {f : Frame} {row : List Pixel} (h : f.Raster width n)
    (hk : k < f.nextRow) (hrow : f.held[k]? = some row) : row.length = width := by
  have hlength : (f.held.map List.length)[k]? = some row.length := by rw [List.getElem?_map, hrow]; rfl
  rw [h.rows, List.getElem?_append_left (by rwa [List.length_replicate]), List.getElem?_replicate, if_pos hk] at hlength
  exact (Option.some.inj hlength).symm

theorem Frame.storeAll_keeps (width : Nat) : ∀ (bs : List Beat) (f : Frame),
    (f.storeAll width bs).e = f.e ∧ (f.storeAll width bs).entry = f.entry ∧ (f.storeAll width bs).low = f.low
  | [], _ => ⟨rfl, rfl, rfl⟩
  | b :: bs, f => by
    obtain ⟨he, hentry, hlow⟩ := Frame.storeAll_keeps width bs (f.store width b)
    have hone : (f.store width b).e = f.e ∧ (f.store width b).entry = f.entry := by
      unfold Frame.store; dsimp only; split <;> exact ⟨rfl, rfl⟩
    exact ⟨he.trans hone.1, hentry.trans hone.2, hlow.trans (f.store_low width b)⟩

/-! ### The bound entry (R63) -/

/-- The state with the entry `e` bound by context `c` (R63). -/
def State.bound (s : State) (c : Ctx) (e : EpochEntry) : State :=
  s.setMept (s.mept.update e.id fun e => e.bind c)

theorem State.bindEpoch_of_unconsumed {s : State} {c : Ctx} {e : EpochEntry} (h : s.mept.unconsumed c = some e) :
    s.bindEpoch c = (s.bound c e, e.id) := by
  rw [State.bindEpoch, h]; rfl

/-- The bound entry carries the consumed and in-use flags of the context (R63). -/
theorem State.bound_find {s : State} {c : Ctx} {e : EpochEntry} (h : s.mept.unconsumed c = some e) :
    ∃ x, (s.bound c e).mept.find e.id = some x ∧ x.consumed.get c = true ∧ x.inUse.get c = true := by
  have hheld : (s.mept.find e.id).isSome = true :=
    List.find?_isSome.mpr ⟨e, List.mem_of_find?_eq_some h, decide_eq_true rfl⟩
  obtain ⟨x, hx⟩ := Option.isSome_iff_exists.mp hheld
  refine ⟨x.bind c, ?_, Both.get_set_self _ _ _, Both.get_set_self _ _ _⟩
  rw [State.bound, State.setMept_mept, EpochTable.find_update _ _ _ (f := fun e => e.bind c) (fun _ => rfl), hx]
  show some (if x.id = e.id then x.bind c else x) = _
  rw [if_pos (EpochTable.find_id hx)]

/-- Entries that differ in their slots only are found under the same names. -/
theorem EpochTable.find_of_blank {m m' : EpochTable} {id : Nat} {e : EpochEntry}
    (h : m'.entries.map EpochEntry.blank = m.entries.map EpochEntry.blank) (hfind : m.find id = some e) :
    ∃ e', m'.find id = some e' ∧ e'.blank = e.blank := by
  have hblank : ∀ t : EpochTable, (t.entries.map EpochEntry.blank).find? (fun x => decide (x.id = id)) =
      (t.find id).map EpochEntry.blank := fun t => List.find?_map
  have hmap := hblank m'
  rw [h, hblank m, hfind] at hmap
  exact Option.map_eq_some_iff.mp hmap.symm

/-! ### The frame begun and its first write accepted (R135, R137, R140) -/

theorem State.beginFrame_of_unconsumed {s : State} {c : Ctx} {e : EpochEntry} (h : s.mept.unconsumed c = some e) :
    s.beginFrame c = (s.bound c e).plan.setCtx c
      { (s.bound c e).plan.ctx c with
        state := .running
        frame := some (Frame.fresh e.id ((s.bound c e).plan.mept.find e.id)) } := by
  rw [State.beginFrame, State.bindEpoch_of_unconsumed h]

theorem Frame.fresh_inSequence {a : FrameArea} {w : UpWrite} (id : Nat) (e : Option EpochEntry)
    (hstart : w.first = a.base) (hstrobes : w.fullStrobes = true) (hcovers : a.covers w.first w.last = true)
    (hrows : (a.rowsTouched w.first w.last).length ≤ 2) : (Frame.fresh id e).inSequence a w true = true := by
  have hexpected : (Frame.fresh id e).expected a = a.base := by simp [Frame.expected, Frame.fresh, FrameArea.at]
  rw [Frame.inSequence, hexpected, hstrobes, hcovers, decide_eq_true hstart, decide_eq_true hrows]
  rfl

theorem State.offerIdle_of_start {s : State} {c : Ctx} {a : FrameArea} {w : UpWrite} {f : Frame}
    (hstart : w.first = a.base) (hf : ((s.beginFrame c).ctx c).frame = some f) (hseq : f.inSequence a w true = true) :
    s.offerIdle c a w =
      (.accept, (((s.beginFrame c).acceptWrite c w).requestNext c).finishIfComplete c) := by
  rw [State.offerIdle, if_neg (fun h => h hstart)]
  dsimp only
  rw [hf]
  exact if_pos hseq

theorem Context.height_of_area {x : Context} {a : FrameArea} (h : x.area = some a) : x.height ≠ 0 := by
  intro hzero
  rw [Context.area, hzero] at h
  split at h
  · cases h
  · cases h

theorem Context.accept_keeps (x : Context) (w : UpWrite) (now : Time) :
    (x.accept w now).height = x.height ∧
      ((x.accept w now).state = .finishing ∨ (x.accept w now).state = x.state) := by
  unfold Context.accept
  split
  · exact ⟨rfl, .inr rfl⟩
  · dsimp only
    split
    · exact ⟨rfl, .inl rfl⟩
    · exact ⟨rfl, .inr rfl⟩

/-- Context `c` after a frame has begun and its first write is accepted, before the write is answered. -/
def State.startedFrame (s : State) (c : Ctx) (w : UpWrite) : State := ((s.beginFrame c).acceptWrite c w).requestNext c

/-- The frame that a write starts: its entry, its place, and the write's beats in line memory (R135, R139). -/
theorem State.startedFrame_ctx {s : State} {c : Ctx} {w : UpWrite} {e : EpochEntry} (hunc : s.mept.unconsumed c = some e) :
    ∃ f stored, ((s.startedFrame c w).ctx c).frame = some f ∧
      stored = (Frame.fresh e.id ((s.bound c e).plan.mept.find e.id)).storeAll (s.ctx c).settings.width w.beats ∧
      f.entry = e.id ∧ f.e = 0 ∧ f.low = 0 ∧ f.held = stored.held ∧ f.nextRow = stored.nextRow ∧ f.nextX = stored.nextX ∧
      ((s.startedFrame c w).ctx c).height = (s.ctx c).height ∧
      (((s.startedFrame c w).ctx c).state = .running ∨ ((s.startedFrame c w).ctx c).state = .finishing) := by
  have hbegun : (s.ctx c).PlansTo ((s.bound c e).plan.ctx c) :=
    (plans_plan (plans_refl (fun _ => False) (s.bound c e))).ctx c
  have hq := State.beginFrame_of_unconsumed hunc
  have hctx : ((s.beginFrame c).acceptWrite c w).ctx c = ((s.beginFrame c).ctx c).accept w (s.beginFrame c).time :=
    State.acceptWrite_ctx _ _ _
  have hself : (s.beginFrame c).ctx c = { (s.bound c e).plan.ctx c with
        state := .running
        frame := some (Frame.fresh e.id ((s.bound c e).plan.mept.find e.id)) } := by
    rw [hq, State.ctx_setCtx_self]
  obtain ⟨stall, haccepted⟩ := Context.accept_frame (x := (s.beginFrame c).ctx c) w (s.beginFrame c).time
    (by rw [hself])
  obtain ⟨hheight, hstate⟩ := ((s.beginFrame c).ctx c).accept_keeps w (s.beginFrame c).time
  have hplans := (plans_requestNext (P := (· = c)) c rfl
    (plans_refl (· = c) ((s.beginFrame c).acceptWrite c w))).ctx c
  rw [hctx] at hplans
  obtain ⟨g, hg, hcore, k, hlow, hheld, hk⟩ := hplans.frame _ haccepted
  have hwidth : ((s.beginFrame c).ctx c).settings.width = (s.ctx c).settings.width := by
    rw [hself]
    exact congrArg Settings.width hbegun.settings_eq
  rw [hwidth] at hlow hheld hk hcore
  set stored := (Frame.fresh e.id ((s.bound c e).plan.mept.find e.id)).storeAll (s.ctx c).settings.width w.beats
    with hstored
  obtain ⟨he, hentry, hzero⟩ := Frame.storeAll_keeps (s.ctx c).settings.width w.beats
    (Frame.fresh e.id ((s.bound c e).plan.mept.find e.id))
  have he' : stored.e = 0 := he
  have hzero' : stored.low = 0 := hzero
  have hk0 : k = 0 := hk.elim id fun h => by
    have : stored.low + k ≤ stored.e := h
    omega
  subst hk0
  refine ⟨g, stored, hg, rfl, (congrArg Frame.entry hcore :).trans hentry, (Frame.e_of_core hcore).trans he',
    hlow.trans hzero', hheld, (congrArg Frame.nextRow hcore :), (congrArg Frame.nextX hcore :), ?_, ?_⟩
  · rw [State.startedFrame, hplans.height_eq, hheight, hself]
    exact hbegun.height_eq
  · rw [State.startedFrame, hplans.state_eq]
    rw [hself] at hstate ⊢
    exact hstate.symm

theorem State.startedFrame_changes {s : State} {c : Ctx} (w : UpWrite) {e : EpochEntry}
    (hunc : s.mept.unconsumed c = some e) : s.changesOnly (s.startedFrame c w) planBlocks := by
  have hbound : s.changesOnly (s.bound c e) planBlocks := changes_setMept _ (by decide) (s.changesOnly_refl _)
  have hbegun : s.changesOnly (s.beginFrame c) planBlocks := by
    rw [State.beginFrame_of_unconsumed hunc]
    exact changes_setCtx _ _ (blockOf_mem_plan c) (stallOf_mem_plan c) (changes_plan hbound)
  exact changes_requestNext c (State.changesOnly_trans hbegun
    (State.changesOnly_mono ((s.beginFrame c).acceptWrite_changes c w) (by decide)))

/-- The bound entry keeps its flags while the frame starts. -/
theorem State.startedFrame_find {s : State} {c : Ctx} (w : UpWrite) {e : EpochEntry}
    (hunc : s.mept.unconsumed c = some e) :
    ∃ e', (s.startedFrame c w).mept.find e.id = some e' ∧ e'.consumed.get c = true ∧ e'.inUse.get c = true := by
  obtain ⟨x, hx, hconsumed, hinUse⟩ := State.bound_find hunc
  have hplan := (plans_plan (plans_refl (fun _ => False) (s.bound c e))).entries
  have hnext := (plans_requestNext (P := (· = c)) c rfl
    (plans_refl (· = c) ((s.beginFrame c).acceptWrite c w))).entries
  have haccept : ((s.beginFrame c).acceptWrite c w).mept = (s.bound c e).plan.mept := by
    rw [(s.beginFrame c).acceptWrite_changes c w .mept (by decide), State.beginFrame_of_unconsumed hunc,
      State.setCtx_mept]
  rw [haccept] at hnext
  obtain ⟨e', he', hblank⟩ := EpochTable.find_of_blank (m' := (s.startedFrame c w).mept) (hnext.trans hplan) hx
  have hflag : e'.inUse = x.inUse := (congrArg EpochEntry.inUse hblank :)
  exact ⟨e', he', by rw [EpochEntry.consumed_of_blank hblank, hconsumed], by rw [hflag, hinUse]⟩

/-- A frame start in IDLE is accepted, and the frame does not end with it (R135, R145). -/
theorem State.takeAlong_of_start {s : State} {c : Ctx} {a : FrameArea} {w : UpWrite} {e : EpochEntry}
    (harea : (s.ctx c).area = some a) (hidle : (s.ctx c).state = .idle) (hmode : (s.ctx c).mode ≠ .transparent)
    (hstart : w.first = a.base) (hstrobes : w.fullStrobes = true) (hcovers : a.covers w.first w.last = true)
    (hrows : (a.rowsTouched w.first w.last).length ≤ 2) (hunc : s.mept.unconsumed c = some e) :
    s.takeAlong w (.offered c a) = (s.startedFrame c w).interceptHead w := by
  have hf : ((s.beginFrame c).ctx c).frame = some (Frame.fresh e.id ((s.bound c e).plan.mept.find e.id)) := by
    rw [State.beginFrame_of_unconsumed hunc, State.ctx_setCtx_self]
  obtain ⟨f, _, hframe, _, _, he, _, _, _, _, hheight, _⟩ := State.startedFrame_ctx (w := w) hunc
  have hgoes : ((s.startedFrame c w).ctx c).completes = none := by
    rw [Context.completes, hframe]
    refine if_neg fun ⟨_, hend, _⟩ => Context.height_of_area harea ?_
    rw [← hheight, ← hend, he]
  have hoffer : s.offer c a w = (.accept, s.startedFrame c w) := by
    rw [State.offer, hidle]
    show (if (s.ctx c).mode = .transparent then s.offerPass c a w else s.offerIdle c a w) = _
    rw [if_neg hmode, State.offerIdle_of_start hstart hf (Frame.fresh_inSequence _ _ hstart hstrobes hcovers hrows)]
    exact congrArg (Prod.mk _) (((s.startedFrame c w).finishIfComplete_ctx c).1 hgoes)
  rw [State.takeAlong, hoffer]

/-- Settles O13: the frame by `State.startedFrame_ctx`, its raster by `Frame.Raster.storeAll`, its entry by
`State.startedFrame_find`, and the answer by `State.interceptHead_of_empty`. -/
theorem frameStartBindsTheOldestUnconsumedEntry : Obligations.FrameStartBindsTheOldestUnconsumedEntry := by
  intro dt c a w e s hready hreset hempty hnoresp hroute harea hidle hmode hstart hstrobes hcovers hrows hunc
  have hctx : (s.presented dt w).ctx c = s.ctx c := State.ctx_begin s dt c
  have hunc' : (s.presented dt w).mept.unconsumed c = some e := by
    rwa [show (s.presented dt w).mept = s.mept from s.begin_mept dt]
  have htake := State.takeAlong_of_start (s := s.presented dt w) (by rwa [hctx]) (by rwa [hctx]) (by rwa [hctx]) hstart
    hstrobes hcovers hrows hunc'
  have hchanges := State.startedFrame_changes w hunc'
  have hpb : ((s.presented dt w).startedFrame c w).pb = { s.pb with channel := [w] } :=
    (hchanges .pb (by decide)).trans (State.presented_pb dt w hempty)
  obtain ⟨hafter, houts⟩ := State.interceptHead_of_empty (s := (s.presented dt w).startedFrame c w) w
    (by rw [hpb]; exact hnoresp)
  obtain ⟨f, stored, hf, hstored, hentry, he, hlow, hheld, hrow, hcol, _, hstate⟩ :=
    State.startedFrame_ctx (w := w) hunc'
  obtain ⟨e', hfind, hconsumed, hinUse⟩ := State.startedFrame_find w hunc'
  rw [hctx] at hstored
  let v := (s.presented dt w).startedFrame c w
  have hsettled : ((v.interceptHead w).settle.ctx c).frame =
      some (f.restall ((v.interceptHead w).stallRuns c) (v.interceptHead w).time) := by
    rw [State.settle_ctx, State.interceptHead_ctx, Context.mapFrame, hf]; rfl
  have hmept : (v.interceptHead w).settle.mept = v.mept :=
    (State.settle_mept _).trans
      (changes_interceptHead (bs := [.pb, .outputs]) w (by decide) (by decide) (State.changesOnly_refl _ _) .mept (by decide))
  refine ⟨(v.interceptHead w).settle, _, e', ?_, ?_, hsettled, hentry, he, ?_, hconsumed, hinUse, ?_, ?_, hlow, ?_,
    fun halign hpos => ?_, ?_⟩
  · rw [exec_upstreamWrite_once dt (by rw [hready]; decide) hreset hempty (by rw [hnoresp]; decide)
      (State.reofferDue_of_unheld (by rw [hroute, htake, hafter])), hroute, htake]
  · rw [State.settle_state, State.interceptHead_ctx]
    exact hstate
  · rw [hmept]; exact hfind
  · rw [State.settle_outputs, houts, show v.outputs = [] from (hchanges .outputs (by decide)).trans (s.begin_outputs dt)]
    rfl
  · rw [State.settle_pb, hafter, hpb]
    show ({ s.pb with channel := [], heldBy := none, responses := [] } : PortBridge) = _
    rw [← hempty, ← hnoresp]
  · show f.held.flatten = _
    rw [hheld, hstored, Frame.storeAll_flatten _ _ (le_refl 0)]
    rfl
  · have hraster := Frame.Raster.storeAll halign w.beats
      (Frame.fresh_raster e.id (((s.presented dt w).bound c e).plan.mept.find e.id) hpos)
    rw [← hstored, Nat.zero_add] at hraster
    refine ⟨?_, ?_, fun k row hk hkrow => ?_⟩
    · show f.nextRow * _ + f.nextX = _
      rw [hrow, hcol]; exact hraster.place
    · show f.nextX < _
      rw [hcol]; exact hraster.inRow
    · exact hraster.row_whole (hrow ▸ hk) (hheld ▸ hkrow)
  · exact changes_settle (by decide) (by decide) (by decide) (changes_interceptHead w (by decide) (by decide)
      (State.changesOnly_trans (State.changesOnly_mono (changes_presented s dt w) (by decide))
        (State.changesOnly_mono hchanges (by decide))))

end Sys2Proof.Machine
end
